-- ==== Sys2Proof/Word.lean ====
section
/-!
DEFINITION. Word types: the widths of the block's values (00_scope.md R17, R18; 10_state.md R30, R34, R35; 30_encoding.md R90, R91).
-/
namespace Sys2Proof

/-- A register value, an immediate `NN` or a byte of Memory: 8 bits, unsigned (R30, R92). -/
abbrev Byte := BitVec 8

/-- An instruction word, bits 15..0 (R90). -/
abbrev Word := BitVec 16

/-- An Address: 12 bits, so always in 0x000..0xFFF (R61). -/
abbrev Addr := BitVec 12

/-- A 4-bit field: a register index `X` or `Y`, a sprite height `N`, a key index (R91, R22). -/
abbrev Nibble := BitVec 4

end Sys2Proof
end

