-- ==== Sys2Proof/Syntax.lean ====
section
/-!
DEFINITION. Syntax: the 34 instructions of 30_encoding.md R95, one constructor per row of spec/opcode_table.json.
-/
namespace Sys2Proof

/-- The decoded instructions. Operand widths are the encoding's field widths (30_encoding.md R91, R99), so an index
outside 0..15 cannot be written (10_state.md R31). `Invalid` is no constructor: the decoder answers it (R96). -/
inductive Instr where
  /-- `00E0`: clear the framebuffer (R190). -/
  | cls
  /-- `00EE`: return from subroutine (R121). -/
  | ret
  /-- `1NNN`: jump (R122). -/
  | jmp (nnn : Addr)
  /-- `2NNN`: call subroutine (R123). -/
  | call (nnn : Addr)
  /-- `3XNN`: skip if V[X] = NN (R124). -/
  | seq (x : Nibble) (nn : Byte)
  /-- `4XNN`: skip if V[X] differs from NN (R125). -/
  | sne (x : Nibble) (nn : Byte)
  /-- `5XY0`: skip if V[X] = V[Y] (R126). -/
  | sre (x y : Nibble)
  /-- `6XNN`: V[X] gets NN (R140). -/
  | seti (x : Nibble) (nn : Byte)
  /-- `7XNN`: V[X] gets V[X] + NN, no flag (R141). -/
  | addi (x : Nibble) (nn : Byte)
  /-- `8XY0`: V[X] gets V[Y] (R142). -/
  | set (x y : Nibble)
  /-- `8XY1` (R143). -/
  | or (x y : Nibble)
  /-- `8XY2` (R144). -/
  | and (x y : Nibble)
  /-- `8XY3` (R145). -/
  | xor (x y : Nibble)
  /-- `8XY4`: add with carry in VF (R146). -/
  | add (x y : Nibble)
  /-- `8XY5`: V[X] - V[Y], no-borrow in VF (R147). -/
  | sub (x y : Nibble)
  /-- `8XY6`: V[Y] shifted right into V[X] (R148). -/
  | shr (x y : Nibble)
  /-- `8XY7`: V[Y] - V[X], no-borrow in VF (R149). -/
  | nsub (x y : Nibble)
  /-- `8XYE`: V[Y] shifted left into V[X] (R150). -/
  | shl (x y : Nibble)
  /-- `9XY0`: skip if V[X] differs from V[Y] (R127). -/
  | srne (x y : Nibble)
  /-- `ANNN`: I gets NNN (R170). -/
  | setidx (nnn : Addr)
  /-- `BNNN`: jump to NNN + V[0] (R128). -/
  | jmpo (nnn : Addr)
  /-- `CXNN`: V[X] gets a random byte and NN (R151). -/
  | rand (x : Nibble) (nn : Byte)
  /-- `DXYN`: composite an N-row sprite (R191). -/
  | draw (x y n : Nibble)
  /-- `EX9E`: skip if the key in V[X] is pressed (R213). -/
  | ske (x : Nibble)
  /-- `EXA1`: skip if the key in V[X] is not pressed (R214). -/
  | skn (x : Nibble)
  /-- `FX07`: V[X] gets DT (R210). -/
  | gdt (x : Nibble)
  /-- `FX0A`: wait for a key (R215). -/
  | gtk (x : Nibble)
  /-- `FX15`: DT gets V[X] (R211). -/
  | sdt (x : Nibble)
  /-- `FX18`: ST gets V[X] (R212). -/
  | sst (x : Nibble)
  /-- `FX1E`: I gets I + V[X] (R171). -/
  | addidx (x : Nibble)
  /-- `FX29`: I gets the glyph address of V[X] (R172). -/
  | font (x : Nibble)
  /-- `FX33`: three decimal digits of V[X] at I (R173). -/
  | bcd (x : Nibble)
  /-- `FX55`: store V[0]..V[X] at I (R174). -/
  | stm (x : Nibble)
  /-- `FX65`: load V[0]..V[X] from I (R175). -/
  | ldm (x : Nibble)
  deriving DecidableEq, Repr

end Sys2Proof
end

