-- ==== Sys2Proof/Decode.lean ====
section
/-!
DEFINITION. Decode: the fields of a word (30_encoding.md R91), the decode function (R96), total on every word and
every byte sequence, and the encoder, written from the patterns of R95.
-/
namespace Sys2Proof

/-- Group `G`, bits 15..12 (R91). -/
def Word.group (op : Word) : Nibble := op.extractLsb' 12 4

/-- Register index `X`, bits 11..8 (R91). -/
def Word.x (op : Word) : Nibble := op.extractLsb' 8 4

/-- Register index `Y`, bits 7..4 (R91). -/
def Word.y (op : Word) : Nibble := op.extractLsb' 4 4

/-- Height or sub-opcode `N`, bits 3..0 (R91). -/
def Word.n (op : Word) : Nibble := op.extractLsb' 0 4

/-- Immediate or sub-opcode `NN`, bits 7..0 (R91). -/
def Word.nn (op : Word) : Byte := op.extractLsb' 0 8

/-- Address `NNN`, bits 11..0 (R91). -/
def Word.nnn (op : Word) : Addr := op.extractLsb' 0 12

/-- What a word decodes to: one of the 34 instructions, or the invalid-opcode marker that carries the word (R96). -/
inductive Decoded where
  | instr (i : Instr)
  | invalid (op : Word)
  deriving DecidableEq, Repr

/-- Group 0x0 compares the whole word (R96, D6). -/
def decodeGroup0 (op : Word) : Decoded :=
  if op = 0x00E0#16 then .instr .cls
  else if op = 0x00EE#16 then .instr .ret
  else .invalid op

/-- Group 0x8 selects on `N` (R96). -/
def decodeGroup8 (op : Word) : Decoded :=
  if op.n = 0x0#4 then .instr (.set op.x op.y)
  else if op.n = 0x1#4 then .instr (.or op.x op.y)
  else if op.n = 0x2#4 then .instr (.and op.x op.y)
  else if op.n = 0x3#4 then .instr (.xor op.x op.y)
  else if op.n = 0x4#4 then .instr (.add op.x op.y)
  else if op.n = 0x5#4 then .instr (.sub op.x op.y)
  else if op.n = 0x6#4 then .instr (.shr op.x op.y)
  else if op.n = 0x7#4 then .instr (.nsub op.x op.y)
  else if op.n = 0xE#4 then .instr (.shl op.x op.y)
  else .invalid op

/-- Group 0xE selects on `NN` (R96). -/
def decodeGroupE (op : Word) : Decoded :=
  if op.nn = 0x9E#8 then .instr (.ske op.x)
  else if op.nn = 0xA1#8 then .instr (.skn op.x)
  else .invalid op

/-- Group 0xF selects on `NN` (R96). -/
def decodeGroupF (op : Word) : Decoded :=
  if op.nn = 0x07#8 then .instr (.gdt op.x)
  else if op.nn = 0x0A#8 then .instr (.gtk op.x)
  else if op.nn = 0x15#8 then .instr (.sdt op.x)
  else if op.nn = 0x18#8 then .instr (.sst op.x)
  else if op.nn = 0x1E#8 then .instr (.addidx op.x)
  else if op.nn = 0x29#8 then .instr (.font op.x)
  else if op.nn = 0x33#8 then .instr (.bcd op.x)
  else if op.nn = 0x55#8 then .instr (.stm op.x)
  else if op.nn = 0x65#8 then .instr (.ldm op.x)
  else .invalid op

/-- The decode function of R96: total, pure, exact. -/
def decode (op : Word) : Decoded :=
  if op.group = 0x0#4 then decodeGroup0 op
  else if op.group = 0x1#4 then .instr (.jmp op.nnn)
  else if op.group = 0x2#4 then .instr (.call op.nnn)
  else if op.group = 0x3#4 then .instr (.seq op.x op.nn)
  else if op.group = 0x4#4 then .instr (.sne op.x op.nn)
  else if op.group = 0x5#4 then (if op.n = 0x0#4 then .instr (.sre op.x op.y) else .invalid op)
  else if op.group = 0x6#4 then .instr (.seti op.x op.nn)
  else if op.group = 0x7#4 then .instr (.addi op.x op.nn)
  else if op.group = 0x8#4 then decodeGroup8 op
  else if op.group = 0x9#4 then (if op.n = 0x0#4 then .instr (.srne op.x op.y) else .invalid op)
  else if op.group = 0xA#4 then .instr (.setidx op.nnn)
  else if op.group = 0xB#4 then .instr (.jmpo op.nnn)
  else if op.group = 0xC#4 then .instr (.rand op.x op.nn)
  else if op.group = 0xD#4 then .instr (.draw op.x op.y op.n)
  else if op.group = 0xE#4 then decodeGroupE op
  else decodeGroupF op

/-- The word that two bytes at rising addresses hold: big-endian, the first byte is bits 15..8 (20_memory.md R66). -/
def wordOfBytes (hi lo : Byte) : Word := BitVec.ofNat 16 (hi.toNat * 2 ^ 8 + lo.toNat)

/-- The two bytes that store a word at rising addresses (20_memory.md R66). -/
def bytesOfWord (w : Word) : List Byte := [w.extractLsb' 8 8, w.extractLsb' 0 8]

/-- Why a byte sequence gives no instruction. -/
inductive DecodeError where
  /-- Fewer than 2 bytes (30_encoding.md R90: every instruction is one 16-bit word). -/
  | tooShort
  /-- The word is of no pattern (R97). -/
  | invalid (op : Word)
  deriving DecidableEq, Repr

/-- Decoding at the head of a byte sequence: the instruction and the bytes after it, or the reason there is none. -/
def decodeBytes : List Byte → Except DecodeError (Instr × List Byte)
  | hi :: lo :: rest =>
    match decode (wordOfBytes hi lo) with
    | .instr i    => .ok (i, rest)
    | .invalid op => .error (.invalid op)
  | _ => .error .tooShort

/-- The bytes of an instruction whose bits, numbered as spec/opcode_table.json numbers them, are `w`: only the low
`nbits` bits count, and the word is stored big-endian. -/
def tableWordBytes (nbits w : Nat) : List Byte := bytesOfWord (BitVec.ofNat 16 (w % 2 ^ nbits))

/-- The instruction the decoder reads from the table word `w` of `nbits` bits; `none` where it refuses. -/
def decodeTableWord (nbits w : Nat) : Option Instr :=
  match decodeBytes (tableWordBytes nbits w) with
  | .ok (i, _) => some i
  | .error _   => none

/-! The encoder, one pattern of R95 a line: each field at its place, G from bit 12 on, X from bit 8 on, Y from bit 4 on,
N, NN and NNN from bit 0 on (R91). -/

/-- Format FXY and FXYN: `gggg xxxx yyyy ssss` (R93). -/
def encodeXY (g x y s : Nibble) : Word :=
  BitVec.ofNat 16 (g.toNat * 2 ^ 12 + x.toNat * 2 ^ 8 + y.toNat * 2 ^ 4 + s.toNat)

/-- Format FXK and FX: `gggg xxxx kkkk kkkk` (R93). -/
def encodeXK (g x : Nibble) (k : Byte) : Word :=
  BitVec.ofNat 16 (g.toNat * 2 ^ 12 + x.toNat * 2 ^ 8 + k.toNat)

/-- Format FA: `gggg aaaa aaaa aaaa` (R93). -/
def encodeA (g : Nibble) (a : Addr) : Word := BitVec.ofNat 16 (g.toNat * 2 ^ 12 + a.toNat)

/-- The word of an instruction (R95). -/
def encode : Instr → Word
  | .cls        => 0x00E0#16
  | .ret        => 0x00EE#16
  | .jmp a      => encodeA 0x1#4 a
  | .call a     => encodeA 0x2#4 a
  | .seq x k    => encodeXK 0x3#4 x k
  | .sne x k    => encodeXK 0x4#4 x k
  | .sre x y    => encodeXY 0x5#4 x y 0x0#4
  | .seti x k   => encodeXK 0x6#4 x k
  | .addi x k   => encodeXK 0x7#4 x k
  | .set x y    => encodeXY 0x8#4 x y 0x0#4
  | .or x y     => encodeXY 0x8#4 x y 0x1#4
  | .and x y    => encodeXY 0x8#4 x y 0x2#4
  | .xor x y    => encodeXY 0x8#4 x y 0x3#4
  | .add x y    => encodeXY 0x8#4 x y 0x4#4
  | .sub x y    => encodeXY 0x8#4 x y 0x5#4
  | .shr x y    => encodeXY 0x8#4 x y 0x6#4
  | .nsub x y   => encodeXY 0x8#4 x y 0x7#4
  | .shl x y    => encodeXY 0x8#4 x y 0xE#4
  | .srne x y   => encodeXY 0x9#4 x y 0x0#4
  | .setidx a   => encodeA 0xA#4 a
  | .jmpo a     => encodeA 0xB#4 a
  | .rand x k   => encodeXK 0xC#4 x k
  | .draw x y n => encodeXY 0xD#4 x y n
  | .ske x      => encodeXK 0xE#4 x 0x9E#8
  | .skn x      => encodeXK 0xE#4 x 0xA1#8
  | .gdt x      => encodeXK 0xF#4 x 0x07#8
  | .gtk x      => encodeXK 0xF#4 x 0x0A#8
  | .sdt x      => encodeXK 0xF#4 x 0x15#8
  | .sst x      => encodeXK 0xF#4 x 0x18#8
  | .addidx x   => encodeXK 0xF#4 x 0x1E#8
  | .font x     => encodeXK 0xF#4 x 0x29#8
  | .bcd x      => encodeXK 0xF#4 x 0x33#8
  | .stm x      => encodeXK 0xF#4 x 0x55#8
  | .ldm x      => encodeXK 0xF#4 x 0x65#8

end Sys2Proof
end

