-- ==== Sys2Proof/Config.lean ====
section
/-!
DEFINITION. Config: the implementation parameters of 00_scope.md section 4 that the spec leaves open, and the free
values the block's input ports draw. Everything opaque here has no body: no proof can see its value.
-/
namespace Sys2Proof

/-- A legal `STACK_BASE`: 0 <= STACK_BASE <= 0xFC0, the constraint of R10. -/
abbrev StackBase := Fin 0xFC1

/-- `SHL_FLAG` (R13): what SHL writes to VF. -/
inductive ShlFlag where
  /-- VF gets bit 7 of the value, 0 or 1: the spec's choice (D13). -/
  | bit
  /-- VF gets `value and 0x80`: the named alternative. -/
  | masked
  deriving DecidableEq, Repr

/-- `LDM_SHORT` (R14): what LDM does to registers for which the clamped read returned no byte. -/
inductive LdmShort where
  /-- They keep their values: the spec's choice (D19). -/
  | unchanged
  /-- Each takes a free draw: the named alternative. -/
  | any
  deriving DecidableEq, Repr

/-- The parameters a launch fixes (R10, R13, R14). They stand in State, which no step changes there (log 3, 4). -/
structure Params where
  stackBase : StackBase
  shlFlag   : ShlFlag
  ldmShort  : LdmShort
  deriving DecidableEq, Repr

/-- `STACK_BASE` of this machine, OPEN in the spec (R10, D20). DESIGN CHOICE (log 3), safe: any legal value. -/
opaque Config.stackBase : StackBase

/-- Free draw number `n` of the key port: `none` or one key (R22, R216). DESIGN CHOICE (log 1), safe. -/
opaque Config.keyPoll : Nat → Option Nibble

/-- Free draw number `n` of the random port (R23). DESIGN CHOICE (log 1), safe: uniformity is not modelled. -/
opaque Config.randomByte : Nat → Byte

/-- Free draw number `n` of the tick port: how many interpreter steps fall before the next tick strobe, 0 included
(R24, R247). DESIGN CHOICE (log 2), safe: every schedule in which the timer agent ticks infinitely often is such a list of
numbers, and every such list is admitted, so this is the weak fairness of R247 and nothing more. -/
opaque Config.stepsToTick : Nat → Nat

/-- Under `LDM_SHORT = any`: the free value that register `j` takes when the LDM run with draw number `n` has no byte
for it (R14, D19). DESIGN CHOICE (log 5), safe. -/
opaque Config.ldmFree : (n j : Nat) → Byte

end Sys2Proof
end

