-- ==== Sys2Proof/Machine/Layout.lean ====
section
/-!
DEFINITION. Layout: the fixed parameters of 00_scope.md R9 and the spec's choices for the named parameters (R13, R14).
-/
namespace Sys2Proof.Machine

/-- `MEM_SIZE` (R9, 20_memory.md R60). -/
def memSize : Nat := 4096

/-- The maximum address 0xFFF (R9). -/
def maxAddr : Nat := 0xFFF

/-- `PROGRAM_START`, also the reset value of pc (R9, 10_state.md R35). -/
def programStart : Addr := 0x200#12

/-- `FONT_BASE` (R9). -/
def fontBase : Addr := 0x050#12

/-- `FONT_GLYPH_BYTES` (R9). -/
def fontGlyphBytes : Nat := 5

/-- `STACK_DEPTH`, in entries of 2 bytes (R9). -/
def stackDepth : Nat := 32

/-- `DISPLAY_W` (R9). -/
def displayW : Nat := 64

/-- `DISPLAY_H` (R9). -/
def displayH : Nat := 32

/-- `SPRITE_W` (R9). -/
def spriteW : Nat := 8

/-- `FLAG_REG`: VF is V[15] (R9, 10_state.md R33). -/
def flagReg : Nibble := 0xF#4

/-- The parameters of this machine: its open `STACK_BASE`, and the spec's choices `SHL_FLAG = bit` (D13) and
`LDM_SHORT = unchanged` (D19). DESIGN CHOICE of the spec (log 4): unsafe if the implementation differs. -/
def defaultParams : Params :=
  { stackBase := Config.stackBase, shlFlag := .bit, ldmShort := .unchanged }

/-- The byte an address reads as that Memory does not list: 0x00 (70_reset_and_hazards.md R271, D23).
DESIGN CHOICE of the spec (log 8): unsafe if the implementation leaves other values. -/
def unlistedByte : Byte := 0x00#8

end Sys2Proof.Machine
end

