-- ==== Sys2Proof/Machine/State.lean ====
section
/-!
DEFINITION. State: every piece of state 10_state.md gives the block, the model's own fields for its ports and
parameters, the outcomes' reasons, and the state after reset.
-/
namespace Sys2Proof.Machine

/-- The causes of a fatal error (60_exceptions.md R232). -/
inductive Cause where
  | invalidInstruction
  | stackOverflow
  | stackUnderflow
  | fetchOutOfRange
  | pcOverflow
  deriving DecidableEq, Repr

/-- `status` (10_state.md R45): running, or halted with the cause, the address of the raising instruction and its
word (`none` when no word was fetched) (60_exceptions.md R231, R232). -/
inductive Status where
  | running
  | halted (cause : Cause) (pcAtFetch : Addr) (opcode : Option Word)
  deriving DecidableEq, Repr

/-- A display event (43_display.md R197). -/
inductive DisplayEvent where
  | clear
  | set (col row : Nat)
  | unset (col row : Nat)
  deriving DecidableEq, Repr

/-- The register file V[0]..V[15] (10_state.md R30). -/
abbrev Regs := Vector Byte 16

/-- The framebuffer: 32 rows of 64 one-bit pixels, `fb[y][x]` (10_state.md R43). -/
abbrev Framebuffer := Vector (Vector Bool 64) 32

/-- Memory as the list of its bytes that differ from `unlistedByte`, at rising addresses (20_memory.md R60, log 8). -/
abbrev Memory := List Host.Cell

/-- The state of the block. -/
structure State where
  /-- V[0]..V[15] (R30). -/
  v        : Regs
  /-- The index register I (R34). -/
  i        : Addr
  /-- The program counter (R35). -/
  pc       : Addr
  /-- The stack depth SP, 0..32 (R40). -/
  sp       : Nat
  /-- The delay timer DT (R41). -/
  dt       : Byte
  /-- The sound timer ST (R42). -/
  st       : Byte
  /-- The framebuffer (R43). -/
  fb       : Framebuffer
  /-- Memory (20_memory.md R60). -/
  mem      : Memory
  /-- running or halted (R45). -/
  status   : Status
  /-- The model's own: the launch's parameters (00_scope.md R10, R13, R14; log 3, 4). -/
  params   : Params
  /-- The model's own: what the key port answers the coming poll (00_scope.md R22; log 1). -/
  keyPort  : Option Nibble
  /-- The model's own: the byte the random port gives the coming RAND (00_scope.md R23; log 1). -/
  randPort : Byte
  /-- The model's own: the interpreter steps before the next tick strobe; at 0 the coming step is the timer agent's
  (00_scope.md R24, R29, 60_exceptions.md R247; log 2). -/
  tickPort : Nat
  /-- The model's own: how many draws of the ports were made (log 1). -/
  draws    : Nat
  /-- The model's own: the display events emitted so far, oldest first (00_scope.md R26; log 10). -/
  events   : List DisplayEvent
  deriving DecidableEq, Repr

/-- Why the machine stops. -/
inductive Fault where
  /-- Raised by `step` alone, in a state whose status is halted: the interpreter and the timer agent have no step there
  (30_encoding.md R110, 60_exceptions.md R248). It carries the halted status. Safe: no state follows. -/
  | halted (cause : Cause) (pcAtFetch : Addr) (opcode : Option Word)
  deriving DecidableEq, Repr

/-- Why a step is refused. -/
inductive Refusal where
  /-- Raised by an arm of `exec` whose instruction has no meaning; no arm of this model is such. Safe. -/
  | notModelled (mnemonic : String)
  deriving DecidableEq, Repr

/-- The state right after reset (70_reset_and_hazards.md R270), before the host's load of font and program
(R271, R273): Memory lists nothing. The model's own fields hold the free draws number 0 (log 1, 2, 3). -/
def State.reset : State :=
  { v := Vector.replicate 16 0x00#8
    i := 0x000#12
    pc := programStart
    sp := 0
    dt := 0x00#8
    st := 0x00#8
    fb := Vector.replicate 32 (Vector.replicate 64 false)
    mem := []
    status := .running
    params := defaultParams
    keyPort := Config.keyPoll 0
    randPort := Config.randomByte 0
    tickPort := Config.stepsToTick 0
    draws := 1
    events := [] }

end Sys2Proof.Machine
end

