-- ==== Sys2Proof/Machine/Ops.lean ====
section
/-!
DEFINITION. Operations: the accessors and updates of State, Memory's primitives (20_memory.md), the framebuffer's,
raising a fatal error (60_exceptions.md R231) and the checked moves of pc.
-/
namespace Sys2Proof.Machine

/-- `Addr(v)`: the masking conversion `v mod 0x1000` (00_scope.md R21, 20_memory.md R61). -/
def addrOf (n : Nat) : Addr := BitVec.ofNat 12 n

/-! ### Memory -/

/-- `M[a]` (00_scope.md R19). -/
def Memory.read : Memory → Nat → Byte
  | [], _ => unlistedByte
  | (k, b) :: m, a => if a = k then b else Memory.read m a

/-- `M[a] <- b` in the canonical form: writing `unlistedByte` removes the entry. -/
def Memory.write : Memory → Nat → Byte → Memory
  | [], a, b => if b = unlistedByte then [] else [(a, b)]
  | (k, c) :: m, a, b =>
    if a < k then (if b = unlistedByte then (k, c) :: m else (a, b) :: (k, c) :: m)
    else if a = k then (if b = unlistedByte then m else (a, b) :: m)
    else (k, c) :: Memory.write m a b

/-- The canonical form from address `lo` on: strictly rising addresses of Memory, no byte that an unlisted address
reads as. -/
def Memory.wfFrom : Nat → Memory → Bool
  | _, [] => true
  | lo, (k, b) :: m => decide (lo ≤ k) && decide (k < memSize) && decide (b ≠ unlistedByte) && Memory.wfFrom (k + 1) m

/-- The canonical form of Memory (log 8). -/
def Memory.wf (m : Memory) : Bool := Memory.wfFrom 0 m

/-- Bytes at rising addresses from `a` on. -/
def Memory.writeFrom (m : Memory) (a : Nat) : List Byte → Memory
  | [] => m
  | b :: bs => Memory.writeFrom (m.write a b) (a + 1) bs

/-- How many of `n` bytes at `a` lie in Memory: `min(n, MEM_SIZE - a)` (20_memory.md R62, R63). -/
def clampLen (a : Addr) (n : Nat) : Nat := min n (memSize - a.toNat)

/-- `MemRead(a, n)`: clamped, never wrapped (20_memory.md R62). -/
def Memory.memRead (m : Memory) (a : Addr) (n : Nat) : List Byte :=
  (List.range (clampLen a n)).map fun j => m.read (a.toNat + j)

/-- `MemWrite(a, n, v)` with `n` the length of `v`: clamped, the rest dropped (20_memory.md R63). -/
def Memory.memWrite (m : Memory) (a : Addr) (bs : List Byte) : Memory :=
  m.writeFrom a.toNat (bs.take (clampLen a bs.length))

/-! ### Registers -/

/-- `V[x]` (00_scope.md R18). -/
def State.reg (s : State) (x : Nibble) : Byte := s.v[x.toNat]'(x.isLt)

/-- `V[x] <- b`. -/
def State.setReg (s : State) (x : Nibble) (b : Byte) : State := { s with v := s.v.set x.toNat b x.isLt }

/-- Consecutive registers from number `j` on take the bytes; a byte past V[15] is dropped (LDM's loop,
42_index_memory.md R175). -/
def Regs.load (v : Regs) (j : Nat) : List Byte → Regs
  | [] => v
  | b :: bs => Regs.load (v.setIfInBounds j b) (j + 1) bs

/-- The whole register file. -/
def State.setRegs (s : State) (v : Regs) : State := { s with v := v }

/-- `I <- a`. -/
def State.setI (s : State) (a : Addr) : State := { s with i := a }

/-- `pc <- a`, the outright replacement of 10_state.md R36. -/
def State.setPc (s : State) (a : Addr) : State := { s with pc := a }

/-- `SP <- n`. -/
def State.setSp (s : State) (n : Nat) : State := { s with sp := n }

/-- `DT <- b`. -/
def State.setDt (s : State) (b : Byte) : State := { s with dt := b }

/-- `ST <- b`. -/
def State.setSt (s : State) (b : Byte) : State := { s with st := b }

/-- All of Memory. -/
def State.setMem (s : State) (m : Memory) : State := { s with mem := m }

/-- The framebuffer, and the event stream that tells of its change (43_display.md R197). -/
def State.setDisplay (s : State) (fb : Framebuffer) (ev : List DisplayEvent) : State :=
  { s with fb := fb, events := ev }

/-! ### Framebuffer -/

/-- `fb[y][x]`; off outside the grid. -/
def Framebuffer.pixel (fb : Framebuffer) (x y : Nat) : Bool :=
  if h : x < 64 ∧ y < 32 then (fb[y]'h.2)[x]'h.1 else false

/-- `fb[y][x] <- b`; nothing outside the grid. -/
def Framebuffer.setPixel (fb : Framebuffer) (x y : Nat) (b : Bool) : Framebuffer :=
  if h : x < 64 ∧ y < 32 then fb.set y ((fb[y]'h.2).set x b h.1) h.2 else fb

/-- Every pixel off. -/
def Framebuffer.blank : Framebuffer := Vector.replicate 32 (Vector.replicate 64 false)

/-! ### Fatal errors and the checked moves of pc -/

/-- The number of a cause (60_exceptions.md R232). -/
def Cause.code : Cause → Nat
  | .invalidInstruction => 1
  | .stackOverflow      => 2
  | .stackUnderflow     => 3
  | .fetchOutOfRange    => 4
  | .pcOverflow         => 5

/-- `raise Fatal(cause, p, op)`: entry into the halted state, nothing else written (60_exceptions.md R231). -/
def State.raise (s : State) (cause : Cause) (p : Addr) (op : Option Word) : State :=
  { s with status := .halted cause p op }

/-- In the execute phase pc holds `p + 2`: the address `p` the instruction was fetched from (10_state.md R39; log 7). -/
def State.fetchAddr (s : State) : Addr := s.pc - 2#12

/-- A fatal error of the execute phase by instruction `i`: its word is the recorded opcode (log 7). -/
def State.raiseBy (s : State) (cause : Cause) (i : Instr) : State :=
  s.raise cause s.fetchAddr (some (encode i))

/-- Whether an advance of pc by 2 would exceed the maximum address (10_state.md R37). -/
def State.atTop (s : State) : Bool := decide (s.pc.toNat + 2 > maxAddr)

/-- `SkipNext()` of instruction `i` (40_control_flow.md R120). -/
def State.skipNext (s : State) (i : Instr) : State :=
  if s.atTop then s.raiseBy .pcOverflow i else s.setPc (s.pc + 2#12)

/-- Skip when the condition holds. -/
def State.skipIf (s : State) (c : Bool) (i : Instr) : State := if c then s.skipNext i else s

/-! ### Call stack -/

/-- The address of stack entry `k` (20_memory.md R70). -/
def State.entryAddr (s : State) (k : Nat) : Addr := addrOf (s.params.stackBase.val + 2 * k)

/-- The two bytes of a stack entry, low byte first (20_memory.md R67). -/
def entryBytes (a : Addr) : List Byte := [a.setWidth 8, (a.extractLsb' 8 4).setWidth 8]

/-- The address in two stack bytes, masked (20_memory.md R72). -/
def entryValue (lo hi : Byte) : Addr := addrOf (lo.toNat ||| (hi.toNat <<< 8))

/-- `Push(a)` after its check (20_memory.md R71). -/
def State.push (s : State) (a : Addr) : State :=
  (s.setMem (s.mem.memWrite (s.entryAddr s.sp) (entryBytes a))).setSp (s.sp + 1)

/-- The address in the top entry, which `Pop()` returns (20_memory.md R72). -/
def State.top (s : State) : Addr :=
  entryValue (s.mem.read (s.entryAddr (s.sp - 1)).toNat) (s.mem.read ((s.entryAddr (s.sp - 1)).toNat + 1))

/-- `SP <- SP - 1`, the state `Pop()` leaves (20_memory.md R72). -/
def State.dropTop (s : State) : State := s.setSp (s.sp - 1)

end Sys2Proof.Machine
end

