-- ==== Sys2Proof/Machine/Flags.lean ====
section
/-!
DEFINITION. Flags: the values VF takes (10_state.md R33) and the results computed with them. Operands are widened,
the exact result is computed, then narrowed (30_encoding.md R92).
-/
namespace Sys2Proof.Machine

/-- A flag as a register value: 1 or 0. -/
def flagByte (b : Bool) : Byte := if b then 0x01#8 else 0x00#8

/-- The sum modulo 256 (41_register_alu.md R141, R146). -/
def sumByte (a b : Byte) : Byte := BitVec.ofNat 8 (a.toNat + b.toNat)

/-- Carry of ADD: 1 iff the sum exceeds 255 (R146). -/
def carryFlag (a b : Byte) : Byte := flagByte (decide (a.toNat + b.toNat > 255))

/-- The 9-bit difference `0x100 + minuend - subtrahend` (R147). -/
def diffWide (m t : Byte) : Nat := 0x100 + m.toNat - t.toNat

/-- The low 8 bits of the difference (R147, R149). -/
def diffByte (m t : Byte) : Byte := BitVec.ofNat 8 (diffWide m t)

/-- No-borrow: bit 8 of the difference (R147, R149). -/
def noBorrowFlag (m t : Byte) : Byte := flagByte ((diffWide m t).testBit 8)

/-- A value shifted right by one (R148). -/
def shrByte (v : Byte) : Byte := v >>> 1

/-- The bit SHR shifts out (R148). -/
def shrFlag (v : Byte) : Byte := flagByte (v.getLsbD 0)

/-- A value shifted left by one (R150). -/
def shlByte (v : Byte) : Byte := v <<< 1

/-- What SHL writes to VF, under either `SHL_FLAG` (R150, 00_scope.md R13; log 4). -/
def shlFlagByte (p : ShlFlag) (v : Byte) : Byte :=
  match p with
  | .bit    => flagByte (v.getLsbD 7)
  | .masked => v &&& 0x80#8

/-- VF gets the flag, then V[x] the result, so that V[15] ends as the result (R152). -/
def State.setFlagged (s : State) (x : Nibble) (flag result : Byte) : State := (s.setReg flagReg flag).setReg x result

end Sys2Proof.Machine
end

