-- ==== Sys2Proof/Machine/Alu.lean ====
section
/-!
DEFINITION. Registers and arithmetic: SETI, ADDI, SET, OR, AND, XOR, ADD, SUB, SHR, NSUB, SHL, RAND (41_register_alu.md).
-/
namespace Sys2Proof.Machine
open Host

/-- SETI (R140). -/
def execSeti (x : Nibble) (nn : Byte) (s : State) : Outcome State Fault Refusal := .next (s.setReg x nn)

/-- ADDI (R141): no flag. -/
def execAddi (x : Nibble) (nn : Byte) (s : State) : Outcome State Fault Refusal :=
  .next (s.setReg x (sumByte (s.reg x) nn))

/-- SET (R142). -/
def execSet (x y : Nibble) (s : State) : Outcome State Fault Refusal := .next (s.setReg x (s.reg y))

/-- OR (R143): no flag. -/
def execOr (x y : Nibble) (s : State) : Outcome State Fault Refusal := .next (s.setReg x (s.reg x ||| s.reg y))

/-- AND (R144): no flag. -/
def execAnd (x y : Nibble) (s : State) : Outcome State Fault Refusal := .next (s.setReg x (s.reg x &&& s.reg y))

/-- XOR (R145): no flag. -/
def execXor (x y : Nibble) (s : State) : Outcome State Fault Refusal := .next (s.setReg x (s.reg x ^^^ s.reg y))

/-- ADD (R146). -/
def execAdd (x y : Nibble) (s : State) : Outcome State Fault Refusal :=
  .next (s.setFlagged x (carryFlag (s.reg x) (s.reg y)) (sumByte (s.reg x) (s.reg y)))

/-- SUB (R147): minuend V[X]. -/
def execSub (x y : Nibble) (s : State) : Outcome State Fault Refusal :=
  .next (s.setFlagged x (noBorrowFlag (s.reg x) (s.reg y)) (diffByte (s.reg x) (s.reg y)))

/-- SHR (R148): shifts V[Y]. -/
def execShr (x y : Nibble) (s : State) : Outcome State Fault Refusal :=
  .next (s.setFlagged x (shrFlag (s.reg y)) (shrByte (s.reg y)))

/-- NSUB (R149): minuend V[Y]. -/
def execNsub (x y : Nibble) (s : State) : Outcome State Fault Refusal :=
  .next (s.setFlagged x (noBorrowFlag (s.reg y) (s.reg x)) (diffByte (s.reg y) (s.reg x)))

/-- SHL (R150): shifts V[Y]. -/
def execShl (x y : Nibble) (s : State) : Outcome State Fault Refusal :=
  .next (s.setFlagged x (shlFlagByte s.params.shlFlag (s.reg y)) (shlByte (s.reg y)))

/-- RAND (R151): the byte is the random port's (log 1). -/
def execRand (x : Nibble) (nn : Byte) (s : State) : Outcome State Fault Refusal :=
  .next (s.setReg x (s.randPort &&& nn))

end Sys2Proof.Machine
end

