-- ==== Sys2Proof/Machine/Operands.lean ====
section
/-!
DEFINITION. Operands: how each operand form of 30_encoding.md R99 is turned into a value, an address or a list of bytes.
-/
namespace Sys2Proof.Machine

/-- An Address plus a register value, summed wide and masked (40_control_flow.md R128, 42_index_memory.md R171). -/
def addrPlus (a : Addr) (b : Byte) : Addr := addrOf (a.toNat + b.toNat)

/-- `Addr(FONT_BASE + FONT_GLYPH_BYTES * (v and 0x0F))` (42_index_memory.md R172). -/
def glyphAddr (b : Byte) : Addr := addrOf (fontBase.toNat + fontGlyphBytes * (b &&& 0x0F#8).toNat)

/-- The key index in a register value: its low nibble (44_timers_keys.md R213, R214). -/
def keyIndex (b : Byte) : Nibble := (b &&& 0x0F#8).setWidth 4

/-- A key index as a register value (44_timers_keys.md R215). -/
def keyByte (k : Nibble) : Byte := k.setWidth 8

/-- The column of a sprite's anchor: wrapped modulo the width (43_display.md R193). -/
def anchorX (b : Byte) : Nat := b.toNat % displayW

/-- The row of a sprite's anchor: wrapped modulo the height (43_display.md R193). -/
def anchorY (b : Byte) : Nat := b.toNat % displayH

/-- The decimal digits hundreds, tens, units of a byte (42_index_memory.md R173). -/
def bcdDigits (b : Byte) : List Byte :=
  [BitVec.ofNat 8 (b.toNat / 100), BitVec.ofNat 8 (b.toNat / 10 % 10), BitVec.ofNat 8 (b.toNat % 10)]

/-- V[0], ..., V[x] (42_index_memory.md R174). -/
def State.regsUpTo (s : State) (x : Nibble) : List Byte := s.v.toList.take (x.toNat + 1)

/-- The bytes LDM finds for V[0]..V[x]: one clamped read at I (42_index_memory.md R175). -/
def State.ldmBytes (s : State) (x : Nibble) : List Byte := s.mem.memRead s.i (x.toNat + 1)

/-- What LDM writes to the registers of V[0]..V[x] that have no byte, the first of them being number `k`: nothing
under `LDM_SHORT = unchanged`, a free value each under `any` (00_scope.md R14; log 4, 5). -/
def State.ldmMissing (s : State) (x : Nibble) (k : Nat) : List Byte :=
  match s.params.ldmShort with
  | .unchanged => []
  | .any       => (List.range (x.toNat + 1 - k)).map fun j => Config.ldmFree s.draws (k + j)

/-- The sprite rows of DRAW: one clamped read of `n` bytes at I (43_display.md R196). -/
def State.spriteRows (s : State) (n : Nibble) : List Byte := s.mem.memRead s.i n.toNat

/-- Column `c` of a sprite row is on: most significant bit first (43_display.md R195). -/
def spriteBit (row : Byte) (c : Nat) : Bool := row.getLsbD (7 - c)

end Sys2Proof.Machine
end

