-- ==== Sys2Proof/Machine/Control.lean ====
section
/-!
DEFINITION. Control transfer: RET, JMP, CALL, SEQ, SNE, SRE, SRNE, JMPO (40_control_flow.md).
-/
namespace Sys2Proof.Machine
open Host

/-- RET (R121). -/
def execRet (s : State) : Outcome State Fault Refusal :=
  .next (if s.sp = 0 then s.raiseBy .stackUnderflow .ret else s.dropTop.setPc s.top)

/-- JMP (R122). -/
def execJmp (nnn : Addr) (s : State) : Outcome State Fault Refusal := .next (s.setPc nnn)

/-- CALL (R123): the pushed value is the address after the CALL. -/
def execCall (nnn : Addr) (s : State) : Outcome State Fault Refusal :=
  .next (if s.sp = stackDepth then s.raiseBy .stackOverflow (.call nnn) else (s.push s.pc).setPc nnn)

/-- SEQ (R124). -/
def execSeq (x : Nibble) (nn : Byte) (s : State) : Outcome State Fault Refusal :=
  .next (s.skipIf (s.reg x == nn) (.seq x nn))

/-- SNE (R125). -/
def execSne (x : Nibble) (nn : Byte) (s : State) : Outcome State Fault Refusal :=
  .next (s.skipIf (s.reg x != nn) (.sne x nn))

/-- SRE (R126). -/
def execSre (x y : Nibble) (s : State) : Outcome State Fault Refusal :=
  .next (s.skipIf (s.reg x == s.reg y) (.sre x y))

/-- SRNE (R127). -/
def execSrne (x y : Nibble) (s : State) : Outcome State Fault Refusal :=
  .next (s.skipIf (s.reg x != s.reg y) (.srne x y))

/-- JMPO (R128): the offset is V[0], never V[X]. -/
def execJmpo (nnn : Addr) (s : State) : Outcome State Fault Refusal := .next (s.setPc (addrPlus nnn (s.reg 0x0#4)))

end Sys2Proof.Machine
end

