-- ==== Sys2Proof/Machine/Display.lean ====
section
/-!
DEFINITION. Display: CLS, DRAW and the sprite compositor (43_display.md).
-/
namespace Sys2Proof.Machine
open Host

/-- What the compositor works on: the grid, whether a pixel was turned off, the events so far (R191). -/
structure Canvas where
  fb       : Framebuffer
  collided : Bool
  events   : List DisplayEvent
  deriving DecidableEq, Repr

/-- The innermost body of R191's loops: sprite pixel (c, r) at grid cell (x0 + c, y0 + r); clipped outside (R194). -/
def compositePixel (x0 y0 r : Nat) (row : Byte) (k : Canvas) (c : Nat) : Canvas :=
  if spriteBit row c && decide (x0 + c < displayW ∧ y0 + r < displayH) then
    { fb := k.fb.setPixel (x0 + c) (y0 + r) (!k.fb.pixel (x0 + c) (y0 + r))
      collided := k.collided || k.fb.pixel (x0 + c) (y0 + r)
      events := k.events ++ [if k.fb.pixel (x0 + c) (y0 + r) then .unset (x0 + c) (y0 + r) else .set (x0 + c) (y0 + r)] }
  else k

/-- One sprite row, columns left to right (R191). -/
def compositeRow (x0 y0 r : Nat) (row : Byte) (k : Canvas) : Canvas :=
  (List.range spriteW).foldl (compositePixel x0 y0 r row) k

/-- Sprite rows from number `r` on, top to bottom (R191). -/
def compositeRows (x0 y0 : Nat) : (r : Nat) → List Byte → Canvas → Canvas
  | _, [], k => k
  | r, row :: rows, k => compositeRows x0 y0 (r + 1) rows (compositeRow x0 y0 r row k)

/-- The whole sprite of DRAW X Y N on the state's grid (R191). -/
def State.composite (s : State) (x y n : Nibble) : Canvas :=
  compositeRows (anchorX (s.reg x)) (anchorY (s.reg y)) 0 (s.spriteRows n) ⟨s.fb, false, s.events⟩

/-- CLS (R190). -/
def execCls (s : State) : Outcome State Fault Refusal :=
  .next (s.setDisplay Framebuffer.blank (s.events ++ [.clear]))

/-- DRAW (R191): VF gets the collision after all compositing (R192). -/
def execDraw (x y n : Nibble) (s : State) : Outcome State Fault Refusal :=
  .next ((s.setDisplay (s.composite x y n).fb (s.composite x y n).events).setReg flagReg
    (flagByte (s.composite x y n).collided))

end Sys2Proof.Machine
end

