-- ==== Sys2Proof/Machine/Index.lean ====
section
/-!
DEFINITION. Index register and memory: SETIDX, ADDIDX, FONT, BCD, STM, LDM (42_index_memory.md).
-/
namespace Sys2Proof.Machine
open Host

/-- SETIDX (R170). -/
def execSetidx (nnn : Addr) (s : State) : Outcome State Fault Refusal := .next (s.setI nnn)

/-- ADDIDX (R171): no flag. -/
def execAddidx (x : Nibble) (s : State) : Outcome State Fault Refusal := .next (s.setI (addrPlus s.i (s.reg x)))

/-- FONT (R172): reads no memory. -/
def execFont (x : Nibble) (s : State) : Outcome State Fault Refusal := .next (s.setI (glyphAddr (s.reg x)))

/-- BCD (R173): always three digits, clamped; I stays. -/
def execBcd (x : Nibble) (s : State) : Outcome State Fault Refusal :=
  .next (s.setMem (s.mem.memWrite s.i (bcdDigits (s.reg x))))

/-- STM (R174): clamped; I stays (R176). -/
def execStm (x : Nibble) (s : State) : Outcome State Fault Refusal :=
  .next (s.setMem (s.mem.memWrite s.i (s.regsUpTo x)))

/-- LDM (R175): the registers with a byte are loaded, the others follow `LDM_SHORT` (R14); I stays (R176). -/
def execLdm (x : Nibble) (s : State) : Outcome State Fault Refusal :=
  .next (s.setRegs ((s.v.load 0 (s.ldmBytes x)).load (s.ldmBytes x).length (s.ldmMissing x (s.ldmBytes x).length)))

end Sys2Proof.Machine
end

