-- ==== Sys2Proof/Machine/TimerKey.lean ====
section
/-!
DEFINITION. Timers and keys: GDT, SDT, SST, SKE, SKN, GTK (44_timers_keys.md).
-/
namespace Sys2Proof.Machine
open Host

/-- GDT (R210). -/
def execGdt (x : Nibble) (s : State) : Outcome State Fault Refusal := .next (s.setReg x s.dt)

/-- SDT (R211). -/
def execSdt (x : Nibble) (s : State) : Outcome State Fault Refusal := .next (s.setDt (s.reg x))

/-- SST (R212). -/
def execSst (x : Nibble) (s : State) : Outcome State Fault Refusal := .next (s.setSt (s.reg x))

/-- SKE (R213): one poll of the key port (R216; log 1). -/
def execSke (x : Nibble) (s : State) : Outcome State Fault Refusal :=
  .next (s.skipIf (s.keyPort == some (keyIndex (s.reg x))) (.ske x))

/-- SKN (R214): another key or no key skips. -/
def execSkn (x : Nibble) (s : State) : Outcome State Fault Refusal :=
  .next (s.skipIf (s.keyPort != some (keyIndex (s.reg x))) (.skn x))

/-- GTK (R215): no key moves pc back to the GTK itself. -/
def execGtk (x : Nibble) (s : State) : Outcome State Fault Refusal :=
  .next (match s.keyPort with
    | some k => s.setReg x (keyByte k)
    | none   => s.setPc (s.pc - 2#12))

end Sys2Proof.Machine
end

