-- ==== Sys2Proof/Machine/Dispatch.lean ====
section
/-!
DEFINITION. Dispatch: one arm per instruction, each a call of its meaning (30_encoding.md R113).
-/
namespace Sys2Proof.Machine
open Host

def exec (i : Instr) (s : State) : Host.Outcome State Fault Refusal :=
  match i with
  | .cls => Sys2Proof.Machine.execCls s
  | .ret => Sys2Proof.Machine.execRet s
  | .jmp nnn => Sys2Proof.Machine.execJmp nnn s
  | .call nnn => Sys2Proof.Machine.execCall nnn s
  | .seq x nn => Sys2Proof.Machine.execSeq x nn s
  | .sne x nn => Sys2Proof.Machine.execSne x nn s
  | .sre x y => Sys2Proof.Machine.execSre x y s
  | .seti x nn => Sys2Proof.Machine.execSeti x nn s
  | .addi x nn => Sys2Proof.Machine.execAddi x nn s
  | .set x y => Sys2Proof.Machine.execSet x y s
  | .or x y => Sys2Proof.Machine.execOr x y s
  | .and x y => Sys2Proof.Machine.execAnd x y s
  | .xor x y => Sys2Proof.Machine.execXor x y s
  | .add x y => Sys2Proof.Machine.execAdd x y s
  | .sub x y => Sys2Proof.Machine.execSub x y s
  | .shr x y => Sys2Proof.Machine.execShr x y s
  | .nsub x y => Sys2Proof.Machine.execNsub x y s
  | .shl x y => Sys2Proof.Machine.execShl x y s
  | .srne x y => Sys2Proof.Machine.execSrne x y s
  | .setidx nnn => Sys2Proof.Machine.execSetidx nnn s
  | .jmpo nnn => Sys2Proof.Machine.execJmpo nnn s
  | .rand x nn => Sys2Proof.Machine.execRand x nn s
  | .draw x y n => Sys2Proof.Machine.execDraw x y n s
  | .ske x => Sys2Proof.Machine.execSke x s
  | .skn x => Sys2Proof.Machine.execSkn x s
  | .gdt x => Sys2Proof.Machine.execGdt x s
  | .gtk x => Sys2Proof.Machine.execGtk x s
  | .sdt x => Sys2Proof.Machine.execSdt x s
  | .sst x => Sys2Proof.Machine.execSst x s
  | .addidx x => Sys2Proof.Machine.execAddidx x s
  | .font x => Sys2Proof.Machine.execFont x s
  | .bcd x => Sys2Proof.Machine.execBcd x s
  | .stm x => Sys2Proof.Machine.execStm x s
  | .ldm x => Sys2Proof.Machine.execLdm x s

end Sys2Proof.Machine
end

