-- ==== Sys2Proof/Machine/Ports.lean ====
section
/-!
DEFINITION. Agents and ports: the timer agent (60_exceptions.md R246, R247), the ports' draws (00_scope.md R22 to R24),
the host's load and launch (R25, R271, R275) and the block's outputs (R27).
-/
namespace Sys2Proof.Machine

/-- One tick of one counter: down by 1, saturating at 0 (60_exceptions.md R246). -/
def tickByte (c : Byte) : Byte := if c = 0x00#8 then c else c - 1#8

/-- One timer tick, the timer agent's step (R246). -/
def State.tick (s : State) : State := { s with dt := tickByte s.dt, st := tickByte s.st }

/-- After the timer agent's step the tick port draws anew when its next strobe falls (R24, R247; log 2). -/
def State.drawTick (s : State) : State :=
  { s with tickPort := Config.stepsToTick s.draws, draws := s.draws + 1 }

/-- The timer agent's step in the run of both agents: one tick (R29, R246, R247). -/
def State.tickStep (s : State) : State := s.tick.drawTick

/-- After an interpreter step the key and random ports draw anew, every answer free (R22, R23, 44_timers_keys.md R216;
log 1), and the next tick strobe is one interpreter step nearer (R247; log 2). -/
def State.refreshPorts (s : State) : State :=
  { s with
    keyPort := Config.keyPoll s.draws
    randPort := Config.randomByte s.draws
    tickPort := s.tickPort - 1
    draws := s.draws + 1 }

/-- The coming step is the interpreter's (R29; log 9). -/
def State.interpreterNext (s : State) : State := { s with tickPort := 1 }

/-- The `load` input: FONT_DATA, then PROGRAM_IMAGE, by the clamped write (00_scope.md R25, 70_reset_and_hazards.md R271). -/
def State.load (s : State) (font image : List Byte) : State :=
  s.setMem ((s.mem.memWrite fontBase font).memWrite programStart image)

/-- `Start(FONT_DATA, PROGRAM_IMAGE, STACK_BASE)`, the launch state (R275). -/
def State.start (font image : List Byte) (sb : StackBase) : State :=
  ({ State.reset with params := { State.reset.params with stackBase := sb } } : State).load font image

/-- The `reset` input on a block in any state, the halted one too, with the host's reload of Memory (R25, R270, R273,
60_exceptions.md R241): the spec's state is as at launch; the parameters, the ports and the stream of events already
emitted are the launch's and the host's, so they stay. -/
def State.applyReset (s : State) (font image : List Byte) : State :=
  ({ State.reset with
      params := s.params
      keyPort := s.keyPort
      randPort := s.randPort
      tickPort := s.tickPort
      draws := s.draws
      events := s.events } : State).load font image

/-- The derived signal `sound_active` of the `sound` output (00_scope.md R27). -/
def State.soundActive (s : State) : Bool := s.st != 0x00#8

end Sys2Proof.Machine
end

