-- ==== Sys2Proof/Machine/Cycle.lean ====
section
/-!
DEFINITION. The cycle: fetch, decode, execute (30_encoding.md R110 to R113) and what a step adds around them.
-/
namespace Sys2Proof.Machine
open Host

/-- What a fetch gives: a fatal error, or the word and the state with pc advanced (R111). -/
inductive Fetched where
  | fatal (s : State)
  | word (op : Word) (s : State)
  deriving DecidableEq, Repr

/-- The word at address `a` and `a + 1`, big-endian (20_memory.md R66). -/
def Memory.wordAt (m : Memory) (a : Addr) : Word := wordOfBytes (m.read a.toNat) (m.read (a.toNat + 1))

/-- Fetch (R111): its two checks in order, then the advance. -/
def State.fetch (s : State) : Fetched :=
  if s.pc.toNat + 1 > maxAddr then .fatal (s.raise .fetchOutOfRange s.pc none)
  else if s.atTop then .fatal (s.raise .pcOverflow s.pc (some (s.mem.wordAt s.pc)))
  else .word (s.mem.wordAt s.pc) (s.setPc (s.pc + 2#12))

/-- Execute a decoded word: an instruction by its meaning, `Invalid(op)` by its fatal error (R113). -/
def execDecoded (d : Decoded) (s : State) : Outcome State Fault Refusal :=
  match d with
  | .instr i    => exec i s
  | .invalid op => .next (s.raise .invalidInstruction s.fetchAddr (some op))

/-- One interpreter step: fetch, decode, execute (R110). -/
def State.cycle (s : State) : Outcome State Fault Refusal :=
  match s.fetch with
  | .fatal t   => .next t
  | .word op t => execDecoded (decode op) t

/-- After an interpreter step the ports move on (log 1, 2). -/
def afterCycle (o : Outcome State Fault Refusal) : Outcome State Fault Refusal :=
  match o with
  | .next t    => .next t.refreshPorts
  | .fault f   => .fault f
  | .refused r => .refused r

/-- A running machine takes one step of one of its two agents: the timer agent's when its strobe is due, else the
interpreter's (00_scope.md R29, 60_exceptions.md R247; log 2). -/
def State.runStep (s : State) : Outcome State Fault Refusal :=
  match s.tickPort with
  | 0     => .next s.tickStep
  | _ + 1 => afterCycle s.cycle

/-- The table word laid out in Memory where the next step fetches, at pc, big-endian (20_memory.md R66), and that step
made the interpreter's (log 9). -/
def State.placeTableWord (s : State) (nbits w : Nat) : State :=
  (s.setMem (s.mem.memWrite s.pc (tableWordBytes nbits w))).interpreterNext

end Sys2Proof.Machine
end

