-- ==== Sys2Proof/Machine/Step.lean ====
section
/-!
DEFINITION. The step of the block, and the placing of one instruction where the next step fetches.
-/
namespace Sys2Proof.Machine
open Host

/-- One step of the block. While running: one step of the timer agent or of the interpreter (00_scope.md R29,
30_encoding.md R110, 60_exceptions.md R246, R247). Halted: neither agent has a step (R110, R248), so the machine is stuck,
and says with which status (log 6). -/
def step (s : State) : Outcome State Fault Refusal :=
  match s.status with
  | .running          => s.runStep
  | .halted cause p w => .fault (.halted cause p w)

/-- The state with the table word stored at pc, where `step` fetches its next instruction (log 9). -/
def State.withFetchWord (s : State) (nbits w : Nat) : State := s.placeTableWord nbits w

end Sys2Proof.Machine
end

