-- ==== Sys2Proof/Safety.lean ====
section
/-!
DEFINITION. Safety: the invariant of the block, what an instruction may touch (frames), and the spec's convention for
the end of a run. Statements are written in these terms.
-/
namespace Sys2Proof.Machine

/-! ### The invariant -/

/-- An instruction that skips (40_control_flow.md R124 to R127, 44_timers_keys.md R213, R214). -/
def isSkip : Instr → Bool
  | .seq _ _ | .sne _ _ | .sre _ _ | .srne _ _ | .ske _ | .skn _ => true
  | _ => false

/-- The fault record of a cause fits the state it was raised in (60_exceptions.md R232, R233, R239, R240): which
address, which word, where pc stands, and what the stack depth was. -/
def recordFits (s : State) (cause : Cause) (p : Addr) (op : Option Word) : Prop :=
  match cause with
  | .fetchOutOfRange => p = 0xFFF#12 ∧ op = none ∧ s.pc = p
  | .pcOverflow =>
    op = some (s.mem.wordAt p) ∧
      ((p = 0xFFE#12 ∧ s.pc = p) ∨
        (p.toNat ≤ 0xFFD ∧ s.pc.toNat = p.toNat + 2 ∧ 0xFFE ≤ s.pc.toNat ∧
          ∃ i, decode (s.mem.wordAt p) = .instr i ∧ isSkip i = true))
  | .invalidInstruction =>
    op = some (s.mem.wordAt p) ∧ p.toNat ≤ 0xFFD ∧ s.pc.toNat = p.toNat + 2 ∧
      decode (s.mem.wordAt p) = .invalid (s.mem.wordAt p)
  | .stackOverflow =>
    op = some (s.mem.wordAt p) ∧ p.toNat ≤ 0xFFD ∧ s.pc.toNat = p.toNat + 2 ∧ s.sp = 32 ∧
      ∃ nnn, decode (s.mem.wordAt p) = .instr (.call nnn)
  | .stackUnderflow =>
    op = some 0x00EE#16 ∧ s.mem.wordAt p = 0x00EE#16 ∧ p.toNat ≤ 0xFFD ∧ s.pc.toNat = p.toNat + 2 ∧ s.sp = 0

/-- A halted status has a record that fits. -/
def statusFits (s : State) : Prop := ∀ c p w, s.status = .halted c p w → recordFits s c p w

/-- The invariant: Memory in canonical form (log 8), the stack depth in 0..32 (10_state.md R40), a fault record that
fits (60_exceptions.md R232). -/
def State.Inv (s : State) : Prop := s.mem.wf = true ∧ s.sp ≤ 32 ∧ statusFits s

/-! ### Frames -/

/-- What may change; all else stays. -/
structure Touched where
  regs    : List Nibble := []
  pc      : Bool := false
  i       : Bool := false
  sp      : Bool := false
  dt      : Bool := false
  st      : Bool := false
  display : Bool := false
  status  : Bool := false
  ports   : Bool := false
  bytes   : List Nat := []

/-- From `s` to `t` nothing changed but what `w` names. The parameters never may. -/
def Frame (w : Touched) (s t : State) : Prop :=
  (∀ x, x ∉ w.regs → t.reg x = s.reg x) ∧
  (w.pc = false → t.pc = s.pc) ∧
  (w.i = false → t.i = s.i) ∧
  (w.sp = false → t.sp = s.sp) ∧
  (w.dt = false → t.dt = s.dt) ∧
  (w.st = false → t.st = s.st) ∧
  (w.display = false → t.fb = s.fb ∧ t.events = s.events) ∧
  (w.status = false → t.status = s.status) ∧
  (w.ports = false → t.keyPort = s.keyPort ∧ t.randPort = s.randPort ∧ t.tickPort = s.tickPort ∧ t.draws = s.draws) ∧
  (∀ a, a ∉ w.bytes → t.mem.read a = s.mem.read a) ∧
  t.params = s.params

/-- The addresses of `n` bytes at `a` that lie in Memory (20_memory.md R62, R63). -/
def bytesAt (a : Addr) (n : Nat) : List Nat := (List.range (clampLen a n)).map (a.toNat + ·)

/-- Registers V[0]..V[x] (42_index_memory.md R174, R175). -/
def regsTo (x : Nibble) : List Nibble := (List.range (x.toNat + 1)).map (BitVec.ofNat 4)

/-- The registers an instruction may write: its destination (10_state.md R32), and VF where it defines a flag (R33). -/
def writesReg : Instr → Nibble → Bool
  | .seti x _, r | .addi x _, r | .set x _, r | .or x _, r | .and x _, r | .xor x _, r | .rand x _, r | .gdt x, r
  | .gtk x, r => r == x
  | .add x _, r | .sub x _, r | .shr x _, r | .nsub x _, r | .shl x _, r => r == x || r == flagReg
  | .draw _ _ _, r => r == flagReg
  | .ldm x, r => decide (r.toNat ≤ x.toNat)
  | _, _ => false

/-- The outcome with its next state changed. -/
def mapNext (f : State → State) : Host.Outcome State Fault Refusal → Host.Outcome State Fault Refusal
  | .next t    => .next (f t)
  | .fault e   => .fault e
  | .refused r => .refused r

/-! ### Skips and sprites, as the rules describe them -/

/-- Instruction `i`, when its condition `c` holds, moves pc past the next instruction, and otherwise moves nothing
(40_control_flow.md R120). A taken skip is asked to stay in Memory; `SkipFaultsWhen` says what happens above. -/
def SkipsWhen (c : Prop) (i : Instr) (s : State) : Prop :=
  (c → s.pc.toNat ≤ 0xFFD) →
    ∃ t, exec i s = .next t ∧ (c → t.pc.toNat = s.pc.toNat + 2) ∧ (¬ c → t.pc = s.pc) ∧ Frame { pc := true } s t

/-- Instruction `i`, when its condition `c` holds and the skip would pass 0xFFF, halts with PC_OVERFLOW: the record
names the instruction's own address and word, and nothing else changes (R120, 60_exceptions.md R232, R233, R240: the
spec's decisions D8, D10; log 6, 7, 11). -/
def SkipFaultsWhen (c : Prop) (i : Instr) (s : State) : Prop :=
  c → 0xFFD < s.pc.toNat →
    ∃ t, exec i s = .next t ∧ t.status = .halted .pcOverflow (s.pc - 2#12) (some (encode i)) ∧
      Frame { status := true } s t

/-- The whole of a skip: the advance, and the fatal error past the top. -/
def SkipRule (c : Prop) (i : Instr) (s : State) : Prop := SkipsWhen c i s ∧ SkipFaultsWhen c i s

/-- How many rows DRAW finds in Memory: `min(N, 0x1000 - I)` (43_display.md R196). -/
def rowCount (s : State) (n : Nibble) : Nat := min n.toNat (4096 - s.i.toNat)

/-- Grid cell (px, py) lies under an on pixel of the sprite that DRAW X Y N draws: the anchor is (V[X] mod 64, V[Y] mod
32), row r is the byte at I + r, and column c is bit 7 - c (43_display.md R193, R195, R196). -/
def spriteCovers (s : State) (x y n : Nibble) (px py : Nat) : Bool :=
  decide ((s.reg x).toNat % 64 ≤ px ∧ px < (s.reg x).toNat % 64 + 8 ∧ (s.reg y).toNat % 32 ≤ py ∧
      py < (s.reg y).toNat % 32 + rowCount s n) &&
    (s.mem.read (s.i.toNat + (py - (s.reg y).toNat % 32))).getLsbD (7 - (px - (s.reg x).toNat % 64))

/-! ### Runs -/

/-- An infinite run of the block, from any state: each state is the next state of the one before it
(60_exceptions.md R247). -/
def InfiniteRun (r : Nat → State) : Prop := ∀ n, step (r n) = .next (r (n + 1))


/-- Stopped at `e`: running, pc at `e`, and `JMP(e)` stored there (70_reset_and_hazards.md R284). -/
def stoppedAt (e : Addr) (s : State) : Prop :=
  s.status = .running ∧ s.pc = e ∧ s.mem.wordAt e = encode (.jmp e)

end Sys2Proof.Machine
end

