-- ==== Sys2Proof/WellFormed.lean ====
section
/-!
DEFINITION. Well-formedness of raw data: which 16-bit words are instructions, by the pattern table of
30_encoding.md R95 (spec/opcode_table.json: match and mask), and which numbers are a STACK_BASE (R10).
An `Instr` needs no check: its operand widths are its types (10_state.md R31, 93_implementation_defined.md K7; log 13).
-/
namespace Sys2Proof

/-- One row of the opcode table: a word belongs to it when its bits under `mask` are `value`. -/
structure OpRow where
  mnemonic : String
  value    : Word
  mask     : Word
  deriving DecidableEq, Repr

/-- The word has this row's fixed bits. -/
def OpRow.fits (r : OpRow) (w : Word) : Bool := w &&& r.mask == r.value

/-- No word fits both rows: they disagree on a bit both fix. -/
def OpRow.disjoint (r q : OpRow) : Bool := (r.value ^^^ q.value) &&& r.mask &&& q.mask != 0#16

/-- The row of an instruction's mnemonic (R95). -/
def Instr.row : Instr → OpRow
  | .cls        => ⟨"CLS",    0x00E0#16, 0xFFFF#16⟩
  | .ret        => ⟨"RET",    0x00EE#16, 0xFFFF#16⟩
  | .jmp _      => ⟨"JMP",    0x1000#16, 0xF000#16⟩
  | .call _     => ⟨"CALL",   0x2000#16, 0xF000#16⟩
  | .seq _ _    => ⟨"SEQ",    0x3000#16, 0xF000#16⟩
  | .sne _ _    => ⟨"SNE",    0x4000#16, 0xF000#16⟩
  | .sre _ _    => ⟨"SRE",    0x5000#16, 0xF00F#16⟩
  | .seti _ _   => ⟨"SETI",   0x6000#16, 0xF000#16⟩
  | .addi _ _   => ⟨"ADDI",   0x7000#16, 0xF000#16⟩
  | .set _ _    => ⟨"SET",    0x8000#16, 0xF00F#16⟩
  | .or _ _     => ⟨"OR",     0x8001#16, 0xF00F#16⟩
  | .and _ _    => ⟨"AND",    0x8002#16, 0xF00F#16⟩
  | .xor _ _    => ⟨"XOR",    0x8003#16, 0xF00F#16⟩
  | .add _ _    => ⟨"ADD",    0x8004#16, 0xF00F#16⟩
  | .sub _ _    => ⟨"SUB",    0x8005#16, 0xF00F#16⟩
  | .shr _ _    => ⟨"SHR",    0x8006#16, 0xF00F#16⟩
  | .nsub _ _   => ⟨"NSUB",   0x8007#16, 0xF00F#16⟩
  | .shl _ _    => ⟨"SHL",    0x800E#16, 0xF00F#16⟩
  | .srne _ _   => ⟨"SRNE",   0x9000#16, 0xF00F#16⟩
  | .setidx _   => ⟨"SETIDX", 0xA000#16, 0xF000#16⟩
  | .jmpo _     => ⟨"JMPO",   0xB000#16, 0xF000#16⟩
  | .rand _ _   => ⟨"RAND",   0xC000#16, 0xF000#16⟩
  | .draw _ _ _ => ⟨"DRAW",   0xD000#16, 0xF000#16⟩
  | .ske _      => ⟨"SKE",    0xE09E#16, 0xF0FF#16⟩
  | .skn _      => ⟨"SKN",    0xE0A1#16, 0xF0FF#16⟩
  | .gdt _      => ⟨"GDT",    0xF007#16, 0xF0FF#16⟩
  | .gtk _      => ⟨"GTK",    0xF00A#16, 0xF0FF#16⟩
  | .sdt _      => ⟨"SDT",    0xF015#16, 0xF0FF#16⟩
  | .sst _      => ⟨"SST",    0xF018#16, 0xF0FF#16⟩
  | .addidx _   => ⟨"ADDIDX", 0xF01E#16, 0xF0FF#16⟩
  | .font _     => ⟨"FONT",   0xF029#16, 0xF0FF#16⟩
  | .bcd _      => ⟨"BCD",    0xF033#16, 0xF0FF#16⟩
  | .stm _      => ⟨"STM",    0xF055#16, 0xF0FF#16⟩
  | .ldm _      => ⟨"LDM",    0xF065#16, 0xF0FF#16⟩

/-- The table of R95, in its order: the rows of one instance of each instruction. -/
def opcodeTable : List OpRow :=
  [Instr.cls, .ret, .jmp 0, .call 0, .seq 0 0, .sne 0 0, .sre 0 0, .seti 0 0, .addi 0 0, .set 0 0, .or 0 0,
    .and 0 0, .xor 0 0, .add 0 0, .sub 0 0, .shr 0 0, .nsub 0 0, .shl 0 0, .srne 0 0, .setidx 0, .jmpo 0,
    .rand 0 0, .draw 0 0 0, .ske 0, .skn 0, .gdt 0, .gtk 0, .sdt 0, .sst 0, .addidx 0, .font 0, .bcd 0,
    .stm 0, .ldm 0].map Instr.row

/-- A word is well-formed when it fits a row of the table: "Any opcode not matching a known pattern within its group
yields `Invalid`" (R94). -/
def Word.wellFormed (w : Word) : Bool := opcodeTable.any (·.fits w)

/-- A number is a legal `STACK_BASE` when every stack entry lies inside Memory (R10). -/
def stackBaseWellFormed (n : Nat) : Bool := decide (n ≤ 4096 - 2 * 32)

end Sys2Proof
end

