-- ==== Sys2Proof/Certificates/Slice0/Obligations.lean ====
section
/-!
DEFINITION. Obligations: the statements about the model, from the numbered rules of spec/. `exec i s` is the execute
phase, so in `s` the pc already holds p + 2 (10_state.md R39); `step` is the whole step.
-/
open Sys2Proof Sys2Proof.Machine Host

/-! ### Reset and launch -/

/-- The state right after reset holds the values of 70_reset_and_hazards.md R270, and Memory reads 0x00 everywhere (the
first line of R271) before the host's load. The 0x00 of Memory is the spec's decision D23 (log 8), that of DT and ST its
decision D26 (log 11). -/
def Obligations.ResetState : Prop :=
  (∀ x, State.reset.reg x = 0x00#8) ∧ State.reset.i = 0x000#12 ∧ State.reset.pc = 0x200#12 ∧ State.reset.sp = 0 ∧
    State.reset.dt = 0x00#8 ∧ State.reset.st = 0x00#8 ∧ (∀ x y, State.reset.fb.pixel x y = false) ∧
    State.reset.status = .running ∧ (∀ a, State.reset.mem.read a = 0x00#8) ∧ State.reset.events = []

/-- The launch state (R270, R271). The program image wins where a long FONT_DATA reaches it; what passes 0xFFF is dropped.
Unwritten bytes and the timers at 0 are the spec's decisions D23, D26, the clamp of a long image its D25 (log 8, 11). -/
def Obligations.LaunchState : Prop :=
  ∀ (font image : List Byte) (sb : StackBase),
    (∀ x, (State.start font image sb).reg x = 0x00#8) ∧ (State.start font image sb).i = 0x000#12 ∧
    (State.start font image sb).pc = 0x200#12 ∧ (State.start font image sb).sp = 0 ∧
    (State.start font image sb).dt = 0x00#8 ∧ (State.start font image sb).st = 0x00#8 ∧
    (∀ x y, (State.start font image sb).fb.pixel x y = false) ∧
    (State.start font image sb).status = .running ∧ (State.start font image sb).events = [] ∧
    (State.start font image sb).params.stackBase = sb ∧
    (∀ a, a < 4096 → (State.start font image sb).mem.read a =
      if 0x200 ≤ a ∧ a - 0x200 < image.length then image.getD (a - 0x200) 0x00#8
      else if 0x050 ≤ a ∧ a - 0x050 < font.length then font.getD (a - 0x050) 0x00#8
      else 0x00#8) ∧
    ∀ a, 4096 ≤ a → (State.start font image sb).mem.read a = 0x00#8

/-- The invariant holds at reset and at every launch. -/
def Obligations.ResetMeetsInvariant : Prop :=
  State.reset.Inv ∧ ∀ (font image : List Byte) (sb : StackBase), (State.start font image sb).Inv

/-- The reset input from any state, a halted one too, gives the spec's state of the launch with the block's own
STACK_BASE, and emits no display event (00_scope.md R25, 60_exceptions.md R241, 70_reset_and_hazards.md R270: the spec's
decision D32, log 11; that the event stream goes on is log 16). -/
def Obligations.ResetInputRestores : Prop :=
  ∀ (s : State) (font image : List Byte),
    (∀ x, (s.applyReset font image).reg x = 0x00#8) ∧ (s.applyReset font image).i = 0x000#12 ∧
    (s.applyReset font image).pc = 0x200#12 ∧ (s.applyReset font image).sp = 0 ∧
    (s.applyReset font image).dt = 0x00#8 ∧ (s.applyReset font image).st = 0x00#8 ∧
    (∀ x y, (s.applyReset font image).fb.pixel x y = false) ∧ (s.applyReset font image).status = .running ∧
    (∀ a, (s.applyReset font image).mem.read a = (State.start font image s.params.stackBase).mem.read a) ∧
    (s.applyReset font image).params = s.params ∧ (s.applyReset font image).events = s.events

/-! ### The step -/

/-- Every step keeps the invariant: Memory canonical, SP in 0..32, and every fault record true of the state it was
raised in (10_state.md R40, 60_exceptions.md R231 to R240; the record is the spec's decision D8, log 6, 7, 8, 12). -/
def Obligations.StepKeepsInvariant : Prop := ∀ s t, State.Inv s → step s = .next t → State.Inv t

/-- A step runs the decoded instruction: an interpreter step (one taken when the tick strobe is not due, log 2) with pc
advanced by 2 (R111); the ports move on afterwards (log 1). -/
def Obligations.StepRunsDecoded : Prop :=
  ∀ (s : State) (i : Instr), s.status = .running → s.tickPort ≠ 0 → s.pc.toNat ≤ 0xFFD →
    decode (s.mem.wordAt s.pc) = .instr i →
    step s = mapNext State.refreshPorts (exec i (s.setPc (s.pc + 2#12)))

/-- R66: the word at an address is its byte in bits 15..8 and the next byte in bits 7..0. -/
def Obligations.FetchBigEndian : Prop :=
  ∀ (m : Memory) (p : Addr),
    (m.wordAt p).extractLsb' 8 8 = m.read p.toNat ∧ (m.wordAt p).extractLsb' 0 8 = m.read (p.toNat + 1) ∧
    ∀ s : State, s.mem = m → s.pc = p → p.toNat ≤ 0xFFD → s.fetch = .word (m.wordAt p) (s.setPc (p + 2#12))

/-- R111: fetch reads two bytes big-endian and advances pc by 2; at 0xFFF it is fatal, and at 0xFFE (the spec's decision
D9, log 11). -/
def Obligations.FetchRule : Prop :=
  ∀ s : State,
    (s.pc.toNat = 0xFFF → s.fetch = .fatal (s.raise .fetchOutOfRange s.pc none)) ∧
    (s.pc.toNat = 0xFFE → s.fetch = .fatal (s.raise .pcOverflow s.pc
      (some (BitVec.ofNat 16 ((s.mem.read 0xFFE).toNat * 256 + (s.mem.read 0xFFF).toNat))))) ∧
    (s.pc.toNat < 0xFFE → s.fetch = .word
      (BitVec.ofNat 16 ((s.mem.read s.pc.toNat).toNat * 256 + (s.mem.read (s.pc.toNat + 1)).toNat))
      (s.setPc (BitVec.ofNat 12 (s.pc.toNat + 2))))

/-- An interpreter step at 0xFFF halts with FETCH_OUT_OF_RANGE (R234), one at 0xFFE with PC_OVERFLOW (the spec's decision
D9, log 11); either leaves pc and all else (R240). -/
def Obligations.FatalFetchHalts : Prop :=
  ∀ s : State, s.status = .running → s.tickPort ≠ 0 →
    (s.pc = 0xFFF#12 → ∃ t, step s = .next t ∧ t.status = .halted .fetchOutOfRange 0xFFF#12 none ∧
      Frame { status := true, ports := true } s t) ∧
    (s.pc = 0xFFE#12 → ∃ t, step s = .next t ∧
      t.status = .halted .pcOverflow 0xFFE#12 (some (s.mem.wordAt 0xFFE#12)) ∧
      Frame { status := true, ports := true } s t)

/-- Executing an Invalid word halts with INVALID_INSTRUCTION, pc = p + 2, nothing else changed (R237; the state left is the
spec's decision D7, log 11). -/
def Obligations.InvalidWordHalts : Prop :=
  ∀ (s : State) (w : Word), s.status = .running → s.tickPort ≠ 0 → s.pc.toNat ≤ 0xFFD →
    decode (s.mem.wordAt s.pc) = .invalid w →
    w = s.mem.wordAt s.pc ∧
    ∃ t, step s = .next t ∧ t.status = .halted .invalidInstruction s.pc (some (s.mem.wordAt s.pc)) ∧
      t.pc.toNat = s.pc.toNat + 2 ∧ Frame { status := true, pc := true, ports := true } s t

/-- A halted block has no step: neither agent moves, and the stop carries the status (R110, R241, R248: the spec's
decision D8; that the stop is a fault of the model is log 6). -/
def Obligations.HaltedHasNoStep : Prop :=
  ∀ (s : State) (c : Cause) (p : Addr) (w : Option Word), s.status = .halted c p w → step s = .fault (.halted c p w)

/-- A running block always has a step, whatever its memory, registers and ports hold (R110, R238). -/
def Obligations.RunningAlwaysSteps : Prop := ∀ s : State, s.status = .running → ∃ t, step s = .next t

/-- Fatal errors are precise (R240, an inference the spec marks as derived, log 11). A step that halts changed nothing but
status (and the ports), and left pc at p (fetch phase) or p + 2 (execute phase). -/
def Obligations.FatalIsPrecise : Prop :=
  ∀ s t : State, s.status = .running → step s = .next t → t.status ≠ .running →
    Frame { status := true, pc := true, ports := true } s t ∧
    ((t.pc = s.pc ∧ 0xFFD < s.pc.toNat) ∨ (t.pc.toNat = s.pc.toNat + 2 ∧ s.pc.toNat ≤ 0xFFD))

/-- The only ways out of running, one cause each, with the recorded address and word (R238, R232, R239; the record is the
spec's decision D8, the two PC_OVERFLOWs its D9 and D10, log 6, 11). -/
def Obligations.FatalCausesTable : Prop :=
  ∀ s t : State, s.sp ≤ 32 → s.status = .running → step s = .next t →
    t.status = .running ∨
    (s.pc = 0xFFF#12 ∧ t.status = .halted .fetchOutOfRange s.pc none) ∨
    (s.pc = 0xFFE#12 ∧ t.status = .halted .pcOverflow s.pc (some (s.mem.wordAt s.pc))) ∨
    (s.pc.toNat ≤ 0xFFD ∧ decode (s.mem.wordAt s.pc) = .invalid (s.mem.wordAt s.pc) ∧
      t.status = .halted .invalidInstruction s.pc (some (s.mem.wordAt s.pc))) ∨
    (s.pc.toNat ≤ 0xFFD ∧ (∃ nnn, decode (s.mem.wordAt s.pc) = .instr (.call nnn)) ∧ s.sp = 32 ∧
      t.status = .halted .stackOverflow s.pc (some (s.mem.wordAt s.pc))) ∨
    (s.pc.toNat ≤ 0xFFD ∧ decode (s.mem.wordAt s.pc) = .instr .ret ∧ s.sp = 0 ∧
      t.status = .halted .stackUnderflow s.pc (some 0x00EE#16)) ∨
    (0xFFC ≤ s.pc.toNat ∧ s.pc.toNat ≤ 0xFFD ∧ (∃ i, decode (s.mem.wordAt s.pc) = .instr i ∧ isSkip i = true) ∧
      t.status = .halted .pcOverflow s.pc (some (s.mem.wordAt s.pc)))

/-! ### Encodings -/

/-- Decoding an encoded instruction gives it back, for every instruction and every operand, from the word and from the
bytes the host lays out. -/
def Obligations.DecodeEncode : Prop :=
  ∀ i : Instr, decode (encode i) = .instr i ∧ decodeTableWord 16 (encode i).toNat = some i

/-- Every word that decodes is the encoding of what it decodes to; a word that does not is carried by `Invalid`. -/
def Obligations.EncodeDecode : Prop :=
  ∀ w : Word, (∀ i, decode w = .instr i → encode i = w) ∧ (∀ v, decode w = .invalid v → v = w)

/-- The decoder accepts exactly the words that fit a row of the opcode table, and gives the row's instruction (R94, R95;
the bit patterns are the spec's general knowledge G1, the exact match its decision D6, log 11). -/
def Obligations.DecodesIffInTable : Prop :=
  ∀ w : Word, ((∃ i, decode w = .instr i) ↔ Word.wellFormed w = true) ∧
    ∀ i, decode w = .instr i → ∀ r ∈ opcodeTable, r.fits w = true → r = i.row

/-- The Invalid encodings, group by group (R97, which the spec derives from its decision D6, log 11). -/
def Obligations.InvalidWordsListed : Prop :=
  ∀ w : Word, (decode w = .invalid w) ↔
    (w.toNat / 4096 = 0x0 ∧ w ≠ 0x00E0#16 ∧ w ≠ 0x00EE#16) ∨
    (w.toNat / 4096 = 0x5 ∧ w.toNat % 16 ≠ 0) ∨
    (w.toNat / 4096 = 0x9 ∧ w.toNat % 16 ≠ 0) ∨
    (w.toNat / 4096 = 0x8 ∧ w.toNat % 16 ∈ [0x8, 0x9, 0xA, 0xB, 0xC, 0xD, 0xF]) ∨
    (w.toNat / 4096 = 0xE ∧ w.toNat % 256 ∉ [0x9E, 0xA1]) ∨
    (w.toNat / 4096 = 0xF ∧ w.toNat % 256 ∉ [0x07, 0x0A, 0x15, 0x18, 0x1E, 0x29, 0x33, 0x55, 0x65])

/-- Words written out from R95 decode to the instructions they stand for, one or more a format (the bit patterns are the
spec's general knowledge G1, log 11). -/
def Obligations.KnownWordsDecode : Prop :=
  decode 0x00E0#16 = .instr .cls ∧ decode 0x00EE#16 = .instr .ret ∧ decode 0x1234#16 = .instr (.jmp 0x234#12) ∧
  decode 0x3A7F#16 = .instr (.seq 0xA#4 0x7F#8) ∧ decode 0x8AB4#16 = .instr (.add 0xA#4 0xB#4) ∧
  decode 0x8AB7#16 = .instr (.nsub 0xA#4 0xB#4) ∧ decode 0xD12F#16 = .instr (.draw 0x1#4 0x2#4 0xF#4) ∧
  decode 0xE19E#16 = .instr (.ske 0x1#4) ∧ decode 0xF265#16 = .instr (.ldm 0x2#4) ∧ decode 0x0123#16 = .invalid 0x0123#16

/-! ### Memory -/

/-- R62: the clamped read. -/
def Obligations.ReadClamped : Prop :=
  ∀ (m : Memory) (a : Addr) (n : Nat),
    (m.memRead a n).length = min n (4096 - a.toNat) ∧
    ∀ j, j < min n (4096 - a.toNat) → (m.memRead a n)[j]? = some (m.read (a.toNat + j))

/-- The clamped write: in a canonical memory (log 8) the bytes that fit are read back, every other address reads as before
(R63; that every byte is writable is the spec's decision D22, log 11). -/
def Obligations.WriteClamped : Prop :=
  ∀ (m : Memory) (a : Addr) (bs : List Byte), m.wf = true →
    (m.memWrite a bs).wf = true ∧
    ∀ c, (m.memWrite a bs).read c =
      if a.toNat ≤ c ∧ c - a.toNat < bs.length ∧ c < 4096 then bs.getD (c - a.toNat) 0x00#8 else m.read c

/-- Memories in canonical form that read alike are equal, so equal memories are equal data (log 8). -/
def Obligations.CanonicalMemoryUnique : Prop :=
  ∀ m n : Memory, m.wf = true → n.wf = true → (∀ a, m.read a = n.read a) → m = n

/-- The word placed for the next step is the word the next fetch reads (R66); the step is made the interpreter's, and
nothing else changes (log 9). -/
def Obligations.PlacedWordIsFetched : Prop :=
  ∀ (s : State) (w : Nat), s.mem.wf = true → s.pc.toNat ≤ 0xFFE → w < 65536 →
    ((s.withFetchWord 16 w).mem.wordAt s.pc).toNat = w ∧
    Frame { bytes := bytesAt s.pc 2 } { s with tickPort := 1 } (s.withFetchWord 16 w)

/-! ### Registers and arithmetic -/

/-- R140: SETI writes the immediate to the destination, and nothing else. -/
def Obligations.SetiLoads : Prop :=
  ∀ x nn s, ∃ t, exec (.seti x nn) s = .next t ∧ t.reg x = nn ∧ Frame { regs := [x] } s t

/-- SET copies a register and writes nothing else (R142; that group 8, N = 0 is this operation is the spec's decision D4,
log 11). -/
def Obligations.SetCopies : Prop :=
  ∀ x y s, ∃ t, exec (.set x y) s = .next t ∧ t.reg x = s.reg y ∧ Frame { regs := [x] } s t

/-- ADDI adds modulo 256 and writes no flag (R141; the flag is the spec's decision D15, log 11). -/
def Obligations.AddiNoFlag : Prop :=
  ∀ x nn s, ∃ t, exec (.addi x nn) s = .next t ∧ (t.reg x).toNat = ((s.reg x).toNat + nn.toNat) % 256 ∧
    Frame { regs := [x] } s t

/-- OR, AND, XOR, bit by bit; no flag (R143 to R145; the flag is the spec's decision D14, log 11). -/
def Obligations.LogicOps : Prop :=
  ∀ x y s,
    (∃ t, exec (.or x y) s = .next t ∧
      (∀ k, (t.reg x).getLsbD k = ((s.reg x).getLsbD k || (s.reg y).getLsbD k)) ∧ Frame { regs := [x] } s t) ∧
    (∃ t, exec (.and x y) s = .next t ∧
      (∀ k, (t.reg x).getLsbD k = ((s.reg x).getLsbD k && (s.reg y).getLsbD k)) ∧ Frame { regs := [x] } s t) ∧
    (∃ t, exec (.xor x y) s = .next t ∧
      (∀ k, (t.reg x).getLsbD k = ((s.reg x).getLsbD k ^^ (s.reg y).getLsbD k)) ∧ Frame { regs := [x] } s t)

/-- ADD stores the sum modulo 256 and the carry in VF (R146); with X = 15 VF ends as the sum (the spec's decision D12,
log 11). -/
def Obligations.AddCarry : Prop :=
  ∀ x y s, ∃ t, exec (.add x y) s = .next t ∧
    (t.reg x).toNat = ((s.reg x).toNat + (s.reg y).toNat) % 256 ∧
    (x ≠ 0xF#4 → t.reg 0xF#4 = if (s.reg x).toNat + (s.reg y).toNat > 255 then 1#8 else 0#8) ∧
    Frame { regs := [x, 0xF#4] } s t

/-- SUB and NSUB store the difference modulo 256 and, in VF, 1 iff no borrow occurred (R147, R149); with X = 15 VF ends as
the difference (the spec's decision D12, log 11). -/
def Obligations.SubNsubNoBorrow : Prop :=
  (∀ x y s, ∃ t, exec (.sub x y) s = .next t ∧
    (t.reg x).toNat = (256 + (s.reg x).toNat - (s.reg y).toNat) % 256 ∧
    (x ≠ 0xF#4 → t.reg 0xF#4 = if (s.reg y).toNat ≤ (s.reg x).toNat then 1#8 else 0#8) ∧
    Frame { regs := [x, 0xF#4] } s t) ∧
  (∀ x y s, ∃ t, exec (.nsub x y) s = .next t ∧
    (t.reg x).toNat = (256 + (s.reg y).toNat - (s.reg x).toNat) % 256 ∧
    (x ≠ 0xF#4 → t.reg 0xF#4 = if (s.reg x).toNat ≤ (s.reg y).toNat then 1#8 else 0#8) ∧
    Frame { regs := [x, 0xF#4] } s t)

/-- R148: SHR stores V[Y] halved, whatever V[X] held, and the bit shifted out in VF. -/
def Obligations.ShrShiftsY : Prop :=
  ∀ x y s, ∃ t, exec (.shr x y) s = .next t ∧ (t.reg x).toNat = (s.reg y).toNat / 2 ∧
    (x ≠ 0xF#4 → (t.reg 0xF#4).toNat = (s.reg y).toNat % 2) ∧ Frame { regs := [x, 0xF#4] } s t

/-- SHL stores V[Y] doubled modulo 256, whatever V[X] held, and in VF the bit shifted out (`SHL_FLAG = bit`) or the value
and 0x80 (`masked`) (R150, R13; `bit` is the spec's decision D13, log 4; the statement holds for both). -/
def Obligations.ShlShiftsY : Prop :=
  ∀ x y s, ∃ t, exec (.shl x y) s = .next t ∧ (t.reg x).toNat = 2 * (s.reg y).toNat % 256 ∧
    (x ≠ 0xF#4 → (t.reg 0xF#4).toNat =
      match s.params.shlFlag with
      | .bit    => (s.reg y).toNat / 128
      | .masked => 128 * ((s.reg y).toNat / 128)) ∧
    Frame { regs := [x, 0xF#4] } s t

/-- RAND stores the drawn byte under the mask (R151); the draw is free by the spec's decision D31, and the statement holds
for every draw (log 1). -/
def Obligations.RandMasks : Prop :=
  ∀ x nn s, ∃ t, exec (.rand x nn) s = .next t ∧
    (∀ k, (t.reg x).getLsbD k = (s.randPort.getLsbD k && nn.getLsbD k)) ∧ Frame { regs := [x] } s t

/-! ### Control transfer -/

/-- JMP replaces pc and nothing else (R122; the operation is the spec's general knowledge G2, log 11). -/
def Obligations.JmpReplacesPc : Prop :=
  ∀ nnn s, ∃ t, exec (.jmp nnn) s = .next t ∧ t.pc = nnn ∧ Frame { pc := true } s t

/-- R128: JMPO jumps to the immediate plus V[0], whatever the other registers hold, and wraps past 0xFFF. -/
def Obligations.JmpoAddsV0 : Prop :=
  ∀ nnn s, ∃ t, exec (.jmpo nnn) s = .next t ∧ t.pc.toNat = (nnn.toNat + (s.reg 0x0#4).toNat) % 4096 ∧
    Frame { pc := true } s t

/-- CALL with room stores the return address little-endian in the entry at STACK_BASE + 2*SP, counts it and jumps; CALL at
SP = 32 halts with STACK_OVERFLOW and writes nothing else (R123, R71, R235). The entry's address is R70, with STACK_BASE
open (the spec's decision D20, log 3); the record is R232 (its decision D8; log 6, 7, DEDUCED). -/
def Obligations.CallPushesOrOverflows : Prop :=
  ∀ nnn s,
    (s.mem.wf = true → s.sp < 32 → ∃ t, exec (.call nnn) s = .next t ∧ t.pc = nnn ∧ t.sp = s.sp + 1 ∧
      (s.entryAddr s.sp).toNat = s.params.stackBase.val + 2 * s.sp ∧
      (t.mem.read (s.entryAddr s.sp).toNat).toNat = s.pc.toNat % 256 ∧
      (t.mem.read ((s.entryAddr s.sp).toNat + 1)).toNat = s.pc.toNat / 256 ∧
      Frame { pc := true, sp := true, bytes := [(s.entryAddr s.sp).toNat, (s.entryAddr s.sp).toNat + 1] } s t) ∧
    (s.sp = 32 → ∃ t, exec (.call nnn) s = .next t ∧
      t.status = .halted .stackOverflow (s.pc - 2#12) (some (encode (.call nnn))) ∧ Frame { status := true } s t)

/-- RET of a nonempty stack drops an entry and jumps to the 12 low bits of its two bytes, low byte first; RET at SP = 0
halts with STACK_UNDERFLOW and writes nothing else (R121, R236). The entry's address and the mask are R70 and R72 (the
spec's decisions D20, D21; log 3, 11); the record is R232 (its decision D8; log 6, 7, DEDUCED). -/
def Obligations.RetPopsOrUnderflows : Prop :=
  ∀ s,
    (s.sp ≠ 0 → s.sp ≤ 32 → ∃ t, exec .ret s = .next t ∧ t.sp + 1 = s.sp ∧
      t.pc.toNat = ((s.mem.read (s.params.stackBase.val + 2 * t.sp)).toNat +
        256 * (s.mem.read (s.params.stackBase.val + 2 * t.sp + 1)).toNat) % 4096 ∧
      Frame { pc := true, sp := true } s t) ∧
    (s.sp = 0 → ∃ t, exec .ret s = .next t ∧
      t.status = .halted .stackUnderflow (s.pc - 2#12) (some 0x00EE#16) ∧ Frame { status := true } s t)

/-- CALL then RET comes back to the instruction after the CALL with the depth as before (R121, R123). -/
def Obligations.CallThenRet : Prop :=
  ∀ nnn s, s.mem.wf = true → s.sp < 32 → ∃ t u, exec (.call nnn) s = .next t ∧ exec .ret t = .next u ∧
    u.pc = s.pc ∧ u.sp = s.sp ∧
    Frame { bytes := [(s.entryAddr s.sp).toNat, (s.entryAddr s.sp).toNat + 1] } s u

/-- The compare skips SEQ, SNE, SRE, SRNE, with the fatal error of a skip that would pass 0xFFF (R124 to R127). That error
is R120's check (the spec's decision D10, log 11), its record R232 (its decision D8; log 6, 7, DEDUCED). -/
def Obligations.CompareSkips : Prop :=
  ∀ s, (∀ x nn, SkipRule (s.reg x = nn) (.seq x nn) s) ∧ (∀ x nn, SkipRule (s.reg x ≠ nn) (.sne x nn) s) ∧
    (∀ x y, SkipRule (s.reg x = s.reg y) (.sre x y) s) ∧ (∀ x y, SkipRule (s.reg x ≠ s.reg y) (.srne x y) s)

/-- The key skips SKE and SKN, by the key port's answer to the one poll and the low nibble of V[X], with the fatal error of
a skip that would pass 0xFFF (R213, R214). The free answer is R216 (the spec's decision D30, log 1); the error is R120's
check (its decision D10, log 11), its record R232 (its decision D8; log 6, 7, DEDUCED). -/
def Obligations.KeySkips : Prop :=
  ∀ s x, SkipRule (∃ k, s.keyPort = some k ∧ k.toNat = (s.reg x).toNat % 16) (.ske x) s ∧
    SkipRule (s.keyPort = none ∨ ∃ k, s.keyPort = some k ∧ k.toNat ≠ (s.reg x).toNat % 16) (.skn x) s

/-! ### Index register and memory -/

/-- SETIDX loads I; ADDIDX adds to I modulo 4096 and writes no flag (R170, R171; these are the spec's decisions D4, D16,
log 11). -/
def Obligations.IndexArithmetic : Prop :=
  (∀ nnn s, ∃ t, exec (.setidx nnn) s = .next t ∧ t.i = nnn ∧ Frame { i := true } s t) ∧
  (∀ x s, ∃ t, exec (.addidx x) s = .next t ∧ t.i.toNat = (s.i.toNat + (s.reg x).toNat) % 4096 ∧
    Frame { i := true } s t)

/-- R172: FONT points I at the glyph of V[X]'s low nibble, and touches nothing else. -/
def Obligations.FontPointsAtGlyph : Prop :=
  ∀ x s, ∃ t, exec (.font x) s = .next t ∧ t.i.toNat = 0x50 + 5 * ((s.reg x).toNat % 16) ∧ Frame { i := true } s t

/-- R173: BCD stores three digits at I, as many as lie in Memory. -/
def Obligations.BcdDigits : Prop :=
  ∀ x s, s.mem.wf = true → ∃ t, exec (.bcd x) s = .next t ∧
    (t.mem.read s.i.toNat).toNat = (s.reg x).toNat / 100 ∧
    (s.i.toNat + 1 < 4096 → (t.mem.read (s.i.toNat + 1)).toNat = (s.reg x).toNat / 10 % 10) ∧
    (s.i.toNat + 2 < 4096 → (t.mem.read (s.i.toNat + 2)).toNat = (s.reg x).toNat % 10) ∧
    Frame { bytes := bytesAt s.i 3 } s t

/-- R174: STM stores V[0]..V[X] at I on, as many as lie in Memory; I stays. -/
def Obligations.StmStores : Prop :=
  ∀ x s, s.mem.wf = true → ∃ t, exec (.stm x) s = .next t ∧
    (∀ r : Nibble, r.toNat ≤ x.toNat → s.i.toNat + r.toNat < 4096 → t.mem.read (s.i.toNat + r.toNat) = s.reg r) ∧
    Frame { bytes := bytesAt s.i (x.toNat + 1) } s t

/-- LDM loads V[0]..V[X] from I on; a register whose byte would lie past 0xFFF keeps its value (`unchanged`) or takes a
free value (`any`); I stays (R175, R14; the clamp and `unchanged` are the spec's decisions D18, D19, log 4, 5). -/
def Obligations.LdmLoads : Prop :=
  ∀ x s, ∃ t, exec (.ldm x) s = .next t ∧
    (∀ r : Nibble, r.toNat ≤ x.toNat → t.reg r =
      if s.i.toNat + r.toNat < 4096 then s.mem.read (s.i.toNat + r.toNat)
      else match s.params.ldmShort with
        | .unchanged => s.reg r
        | .any       => Config.ldmFree s.draws r.toNat) ∧
    Frame { regs := regsTo x } s t

/-- What STM stored, LDM loads back, for every register whose byte lies in Memory (R174, R175, R176). -/
def Obligations.StmLdmRoundTrip : Prop :=
  ∀ x s, s.mem.wf = true → ∃ t, exec (.stm x) s = .next t ∧
    ∀ u, u.mem = t.mem → u.i = t.i → ∃ v, exec (.ldm x) u = .next v ∧
      ∀ r : Nibble, r.toNat ≤ x.toNat → s.i.toNat + r.toNat < 4096 → v.reg r = s.reg r

/-! ### Display -/

/-- R190: CLS turns every pixel off and emits clear; VF is not written. -/
def Obligations.ClsClears : Prop :=
  ∀ s, ∃ t, exec .cls s = .next t ∧ (∀ x y, t.fb.pixel x y = false) ∧ t.events = s.events ++ [.clear] ∧
    Frame { display := true } s t

/-- DRAW flips exactly the cells under on sprite pixels, the anchor wrapped, each row byte most significant bit first (R191,
R193, R195); the body is clipped (R194). The rows are the min(N, 0x1000 - I) that lie in Memory, none for N = 0: R196 (the
spec's decisions D17, D18, log 11). -/
def Obligations.DrawPixels : Prop :=
  ∀ x y n s, ∃ t, exec (.draw x y n) s = .next t ∧
    (∀ px py, px < 64 → py < 32 → t.fb.pixel px py = (s.fb.pixel px py ^^ spriteCovers s x y n px py)) ∧
    Frame { regs := [0xF#4], display := true } s t

/-- VF is 1 when some cell under an on sprite pixel was on, else 0 (R191, R192). The rows that count are those of R196, none
for N = 0, where VF is 0 (the spec's decisions D17, D18, log 11). -/
def Obligations.DrawCollision : Prop :=
  ∀ x y n s, ∃ t, exec (.draw x y n) s = .next t ∧ (t.reg 0xF#4 = 0#8 ∨ t.reg 0xF#4 = 1#8) ∧
    (t.reg 0xF#4 = 1#8 ↔
      ∃ px py, px < 64 ∧ py < 32 ∧ s.fb.pixel px py = true ∧ spriteCovers s x y n px py = true)

/-- DRAW emits one event for each cell it flips, rows top to bottom, columns left to right: unset where the cell was on,
set where it was off (R191, R197; the stream is the model's own field, log 10). -/
def Obligations.DrawEvents : Prop :=
  ∀ x y n s, ∃ t, exec (.draw x y n) s = .next t ∧
    t.events = s.events ++ (List.range (rowCount s n)).flatMap fun r => (List.range 8).filterMap fun c =>
      if (s.reg x).toNat % 64 + c < 64 ∧ (s.reg y).toNat % 32 + r < 32 ∧
          spriteCovers s x y n ((s.reg x).toNat % 64 + c) ((s.reg y).toNat % 32 + r) = true then
        some (if s.fb.pixel ((s.reg x).toNat % 64 + c) ((s.reg y).toNat % 32 + r) = true
          then .unset ((s.reg x).toNat % 64 + c) ((s.reg y).toNat % 32 + r)
          else .set ((s.reg x).toNat % 64 + c) ((s.reg y).toNat % 32 + r))
      else none

/-- Drawing the same sprite at the same anchor twice restores the grid; the second reports 1 exactly when the first
turned a pixel on; and after a first DRAW without collision the second reports 0 exactly when the first changed no pixel
(R191, R192). The last clause of R198 says that of a colliding first DRAW too, which R191 and R192 contradict (log 14). -/
def Obligations.DrawTwiceRestores : Prop :=
  ∀ x y n s, ∃ t, exec (.draw x y n) s = .next t ∧
    ∀ x' y' u, u.fb = t.fb → u.mem = t.mem → u.i = t.i → (u.reg x').toNat % 64 = (s.reg x).toNat % 64 →
      (u.reg y').toNat % 32 = (s.reg y).toNat % 32 →
      ∃ v, exec (.draw x' y' n) u = .next v ∧ v.fb = s.fb ∧
        (v.reg 0xF#4 = 1#8 ↔ ∃ px py, s.fb.pixel px py = false ∧ t.fb.pixel px py = true) ∧
        (t.reg 0xF#4 = 0#8 → (v.reg 0xF#4 = 0#8 ↔ t.fb = s.fb))

/-! ### Timers and keys -/

/-- GDT reads DT, SDT and SST write a counter (R210 to R212; that these words are these operations is the spec's decision
D4, log 11). -/
def Obligations.TimerAccess : Prop :=
  ∀ x s, (∃ t, exec (.gdt x) s = .next t ∧ t.reg x = s.dt ∧ Frame { regs := [x] } s t) ∧
    (∃ t, exec (.sdt x) s = .next t ∧ t.dt = s.reg x ∧ Frame { dt := true } s t) ∧
    (∃ t, exec (.sst x) s = .next t ∧ t.st = s.reg x ∧ Frame { st := true } s t)

/-- GTK stores a pressed key, or moves pc back by 2 and touches nothing else (R215; a held key counts at once by the spec's
decision D38, log 11; every answer of the port is admitted, log 1). -/
def Obligations.GtkTakesKeyOrWaits : Prop :=
  ∀ x s, (∀ k, s.keyPort = some k → ∃ t, exec (.gtk x) s = .next t ∧ (t.reg x).toNat = k.toNat ∧
      Frame { regs := [x] } s t) ∧
    (s.keyPort = none → ∃ t, exec (.gtk x) s = .next t ∧ t.pc = s.pc - 2#12 ∧ Frame { pc := true } s t)

/-- While no key is pressed an interpreter step at a GTK leaves pc at the GTK and changes nothing; the timer agent's steps
go on there, and leave pc at the GTK too (R215, R282: the spec's decision D38, log 1, 2, 11). -/
def Obligations.GtkWaitRepeats : Prop :=
  ∀ (s : State) x, s.status = .running → s.pc.toNat ≤ 0xFFD → decode (s.mem.wordAt s.pc) = .instr (.gtk x) →
    s.keyPort = none →
    (s.tickPort ≠ 0 → ∃ t, step s = .next t ∧ Frame { ports := true } s t) ∧
    (s.tickPort = 0 → ∃ t, step s = .next t ∧ t.dt = s.tick.dt ∧ t.st = s.tick.st ∧ t.keyPort = none ∧
      Frame { dt := true, st := true, ports := true } s t)

/-- One tick takes 1 from each nonzero counter and touches nothing else; `n` ticks take n, and no counter passes 0; a step
of a running block whose tick strobe is due is one such tick (R246, R29; both counters in one tick by the spec's decision
D27, log 2). -/
def Obligations.TimerStepTicks : Prop :=
  ∀ s : State,
    (s.tick.dt.toNat = s.dt.toNat - 1 ∧ s.tick.st.toNat = s.st.toNat - 1 ∧ Frame { dt := true, st := true } s s.tick) ∧
    (∀ n : Nat, (Nat.repeat State.tick n s).dt.toNat = s.dt.toNat - n ∧
      (Nat.repeat State.tick n s).st.toNat = s.st.toNat - n ∧
      Frame { dt := true, st := true } s (Nat.repeat State.tick n s)) ∧
    (s.status = .running → s.tickPort = 0 → ∃ t, step s = .next t ∧ t.dt = s.tick.dt ∧ t.st = s.tick.st ∧
      Frame { dt := true, st := true, ports := true } s t)

/-- Weak fairness: in every infinite run, from whatever state, the timer agent ticks infinitely often: after state number
`n` it ticks at the latest when the interpreter steps before its strobe are done (R247: the spec's decision D27, log 2). -/
def Obligations.TimerTicksForever : Prop :=
  ∀ r : Nat → State, InfiniteRun r → ∀ n, ∃ m, n ≤ m ∧ m ≤ n + (r n).tickPort ∧
    (r (m + 1)).dt = (r m).tick.dt ∧ (r (m + 1)).st = (r m).tick.st ∧ (r m).tickPort = 0 ∧
    Frame { dt := true, st := true, ports := true } (r m) (r (m + 1))

/-! ### Whole-machine rules -/

/-- Over all instructions: a register changes only as a destination, or VF where a flag is defined (R33; R32 and R154 are
the spec's inferences, with its decisions D14, D15, log 11). -/
def Obligations.RegisterWriters : Prop :=
  ∀ i s t r, exec i s = .next t → writesReg i r = false → t.reg r = s.reg r

/-- Over all instructions: who writes I (R34), SP (R40), DT (R41), ST (R42), the framebuffer and its events (R43),
Memory (R69); and nobody writes the parameters or the ports. -/
def Obligations.WritersOfEachState : Prop :=
  ∀ i s t, exec i s = .next t →
    (t.i ≠ s.i → (∃ a, i = .setidx a) ∨ (∃ x, i = .addidx x) ∨ (∃ x, i = .font x)) ∧
    (t.sp ≠ s.sp → (∃ a, i = .call a) ∨ i = .ret) ∧
    (t.dt ≠ s.dt → ∃ x, i = .sdt x) ∧
    (t.st ≠ s.st → ∃ x, i = .sst x) ∧
    (t.fb ≠ s.fb ∨ t.events ≠ s.events → i = .cls ∨ ∃ x y n, i = .draw x y n) ∧
    (t.mem ≠ s.mem → (∃ a, i = .call a) ∨ (∃ x, i = .bcd x) ∨ (∃ x, i = .stm x)) ∧
    t.params = s.params ∧ t.keyPort = s.keyPort ∧ t.randPort = s.randPort ∧ t.tickPort = s.tickPort ∧ t.draws = s.draws

/-- The two agents share only DT and ST: ticks before an instruction other than GDT, SDT, SST might as well come after
it (60_exceptions.md R251; that no tick falls inside a step is the spec's decision D27, log 2). -/
def Obligations.AgentsShareOnlyTimers : Prop :=
  ∀ i s n, (∀ x, i ≠ .gdt x ∧ i ≠ .sdt x ∧ i ≠ .sst x) →
    exec i (Nat.repeat State.tick n s) = mapNext (Nat.repeat State.tick n) (exec i s)

/-- Only SKE, SKN and GTK poll the keys; only RAND draws a random byte; none reads the tick port: otherwise the port's answer
changes nothing else (44_timers_keys.md R216, 00_scope.md R22, R23: the spec's decisions D30, D31, log 1). -/
def Obligations.PortsReadOnlyByTheirInstructions : Prop :=
  (∀ i s k, (∀ x, i ≠ .ske x ∧ i ≠ .skn x ∧ i ≠ .gtk x) →
    exec i { s with keyPort := k } = mapNext (fun t => { t with keyPort := k }) (exec i s)) ∧
  (∀ i s b, (∀ x nn, i ≠ .rand x nn) →
    exec i { s with randPort := b } = mapNext (fun t => { t with randPort := b }) (exec i s)) ∧
  ∀ i s n, exec i { s with tickPort := n } = mapNext (fun t => { t with tickPort := n }) (exec i s)

/-- A block stopped at E stays stopped at E; an interpreter step there changes nothing but the ports, a timer step only the
timers too. E is asked to be an address an instruction can be executed from (70_reset_and_hazards.md R284, R281: the
spec's decision D36; log 15). -/
def Obligations.StoppedStays : Prop :=
  ∀ (e : Addr) (s : State), e.toNat ≤ 0xFFD → stoppedAt e s → ∃ t, step s = .next t ∧ stoppedAt e t ∧
    Frame { dt := true, st := true, ports := true } s t ∧
    (s.tickPort ≠ 0 → Frame { ports := true } s t)
end

