-- ==== Sys2Proof/Laws/Decode.lean ====
section
/-!
SUPPORT. Laws of the encodings: the fields of each format are read back, bit for bit (30_encoding.md R91, R93).
-/
namespace Sys2Proof

/-- The value of a field of a word: `len` bits from bit `lo` on (30_encoding.md R91). -/
theorem Word.toNat_field (w : Word) (lo len : Nat) : (w.extractLsb' lo len).toNat = w.toNat / 2 ^ lo % 2 ^ len := by
  rw [BitVec.extractLsb'_toNat, Nat.shiftRight_eq_div_pow]

/-! ### Formats FXY and FXYN -/

@[simp] theorem group_encodeXY (g x y n : Nibble) : (encodeXY g x y n).group = g := by
  apply BitVec.eq_of_toNat_eq
  have hg := g.isLt
  have hx := x.isLt
  have hy := y.isLt
  have hn := n.isLt
  simp only [encodeXY, Word.group, Word.toNat_field, BitVec.toNat_ofNat]
  omega

@[simp] theorem x_encodeXY (g x y n : Nibble) : (encodeXY g x y n).x = x := by
  apply BitVec.eq_of_toNat_eq
  have hg := g.isLt
  have hx := x.isLt
  have hy := y.isLt
  have hn := n.isLt
  simp only [encodeXY, Word.x, Word.toNat_field, BitVec.toNat_ofNat]
  omega

@[simp] theorem y_encodeXY (g x y n : Nibble) : (encodeXY g x y n).y = y := by
  apply BitVec.eq_of_toNat_eq
  have hg := g.isLt
  have hx := x.isLt
  have hy := y.isLt
  have hn := n.isLt
  simp only [encodeXY, Word.y, Word.toNat_field, BitVec.toNat_ofNat]
  omega

@[simp] theorem n_encodeXY (g x y n : Nibble) : (encodeXY g x y n).n = n := by
  apply BitVec.eq_of_toNat_eq
  have hg := g.isLt
  have hx := x.isLt
  have hy := y.isLt
  have hn := n.isLt
  simp only [encodeXY, Word.n, Word.toNat_field, BitVec.toNat_ofNat]
  omega

/-! ### Formats FXK and FX -/

@[simp] theorem group_encodeXK (g x : Nibble) (k : Byte) : (encodeXK g x k).group = g := by
  apply BitVec.eq_of_toNat_eq
  have hg := g.isLt
  have hx := x.isLt
  have hk := k.isLt
  simp only [encodeXK, Word.group, Word.toNat_field, BitVec.toNat_ofNat]
  omega

@[simp] theorem x_encodeXK (g x : Nibble) (k : Byte) : (encodeXK g x k).x = x := by
  apply BitVec.eq_of_toNat_eq
  have hg := g.isLt
  have hx := x.isLt
  have hk := k.isLt
  simp only [encodeXK, Word.x, Word.toNat_field, BitVec.toNat_ofNat]
  omega

@[simp] theorem nn_encodeXK (g x : Nibble) (k : Byte) : (encodeXK g x k).nn = k := by
  apply BitVec.eq_of_toNat_eq
  have hg := g.isLt
  have hx := x.isLt
  have hk := k.isLt
  simp only [encodeXK, Word.nn, Word.toNat_field, BitVec.toNat_ofNat]
  omega

/-! ### Format FA -/

@[simp] theorem group_encodeA (g : Nibble) (a : Addr) : (encodeA g a).group = g := by
  apply BitVec.eq_of_toNat_eq
  have hg := g.isLt
  have ha := a.isLt
  simp only [encodeA, Word.group, Word.toNat_field, BitVec.toNat_ofNat]
  omega

@[simp] theorem nnn_encodeA (g : Nibble) (a : Addr) : (encodeA g a).nnn = a := by
  apply BitVec.eq_of_toNat_eq
  have hg := g.isLt
  have ha := a.isLt
  simp only [encodeA, Word.nnn, Word.toNat_field, BitVec.toNat_ofNat]
  omega

/-! ### A word is its fields -/

theorem Word.eq_encodeXY (w : Word) : encodeXY w.group w.x w.y w.n = w := by
  apply BitVec.eq_of_toNat_eq
  have hw := w.isLt
  simp only [encodeXY, Word.group, Word.x, Word.y, Word.n, Word.toNat_field, BitVec.toNat_ofNat]
  omega

theorem Word.eq_encodeXK (w : Word) : encodeXK w.group w.x w.nn = w := by
  apply BitVec.eq_of_toNat_eq
  have hw := w.isLt
  simp only [encodeXK, Word.group, Word.x, Word.nn, Word.toNat_field, BitVec.toNat_ofNat]
  omega

theorem Word.eq_encodeA (w : Word) : encodeA w.group w.nnn = w := by
  apply BitVec.eq_of_toNat_eq
  have hw := w.isLt
  simp only [encodeA, Word.group, Word.nnn, Word.toNat_field, BitVec.toNat_ofNat]
  omega

/-- The big-endian bytes of a word give the word back (20_memory.md R66). -/
@[simp] theorem wordOfBytes_bytes (w : Word) : wordOfBytes (w.extractLsb' 8 8) (w.extractLsb' 0 8) = w := by
  apply BitVec.eq_of_toNat_eq
  have hw := w.isLt
  simp only [wordOfBytes, Word.toNat_field, BitVec.toNat_ofNat]
  omega

/-- Decoding the two bytes of a word is decoding the word. -/
theorem decodeBytes_bytesOfWord (w : Word) (rest : List Byte) :
    decodeBytes (bytesOfWord w ++ rest) =
      match decode w with
      | .instr i    => .ok (i, rest)
      | .invalid op => .error (.invalid op) := by
  cases h : decode w <;> simp [bytesOfWord, decodeBytes, h]

/-! ### The decoder, group by group (30_encoding.md R96) -/

/-- The sixteen groups. -/
theorem Word.group_cases (w : Word) :
    w.group = 0x0#4 ∨ w.group = 0x1#4 ∨ w.group = 0x2#4 ∨ w.group = 0x3#4 ∨ w.group = 0x4#4 ∨ w.group = 0x5#4 ∨ w.group = 0x6#4 ∨ w.group = 0x7#4 ∨
    w.group = 0x8#4 ∨ w.group = 0x9#4 ∨ w.group = 0xA#4 ∨ w.group = 0xB#4 ∨ w.group = 0xC#4 ∨ w.group = 0xD#4 ∨ w.group = 0xE#4 ∨ w.group = 0xF#4 := by
  generalize w.group = g
  revert g
  decide

theorem decode_group0 {w : Word} (h : w.group = 0x0#4) : decode w = decodeGroup0 w := by
  simp [decode, h]

theorem decode_group1 {w : Word} (h : w.group = 0x1#4) : decode w = .instr (.jmp w.nnn) := by
  simp [decode, h]

theorem decode_group2 {w : Word} (h : w.group = 0x2#4) : decode w = .instr (.call w.nnn) := by
  simp [decode, h]

theorem decode_group3 {w : Word} (h : w.group = 0x3#4) : decode w = .instr (.seq w.x w.nn) := by
  simp [decode, h]

theorem decode_group4 {w : Word} (h : w.group = 0x4#4) : decode w = .instr (.sne w.x w.nn) := by
  simp [decode, h]

theorem decode_group5 {w : Word} (h : w.group = 0x5#4) : decode w = if w.n = 0x0#4 then .instr (.sre w.x w.y) else .invalid w := by
  simp [decode, h]

theorem decode_group6 {w : Word} (h : w.group = 0x6#4) : decode w = .instr (.seti w.x w.nn) := by
  simp [decode, h]

theorem decode_group7 {w : Word} (h : w.group = 0x7#4) : decode w = .instr (.addi w.x w.nn) := by
  simp [decode, h]

theorem decode_group8 {w : Word} (h : w.group = 0x8#4) : decode w = decodeGroup8 w := by
  simp [decode, h]

theorem decode_group9 {w : Word} (h : w.group = 0x9#4) : decode w = if w.n = 0x0#4 then .instr (.srne w.x w.y) else .invalid w := by
  simp [decode, h]

theorem decode_groupA {w : Word} (h : w.group = 0xA#4) : decode w = .instr (.setidx w.nnn) := by
  simp [decode, h]

theorem decode_groupB {w : Word} (h : w.group = 0xB#4) : decode w = .instr (.jmpo w.nnn) := by
  simp [decode, h]

theorem decode_groupC {w : Word} (h : w.group = 0xC#4) : decode w = .instr (.rand w.x w.nn) := by
  simp [decode, h]

theorem decode_groupD {w : Word} (h : w.group = 0xD#4) : decode w = .instr (.draw w.x w.y w.n) := by
  simp [decode, h]

theorem decode_groupE {w : Word} (h : w.group = 0xE#4) : decode w = decodeGroupE w := by
  simp [decode, h]

theorem decode_groupF {w : Word} (h : w.group = 0xF#4) : decode w = decodeGroupF w := by
  simp [decode, h]

/-! ### The masks of the opcode table -/

/-- Masking a run of bits of a number. -/
theorem nat_and_run (k m a : Nat) : a &&& (2 ^ k - 1) * 2 ^ m = a / 2 ^ m % 2 ^ k * 2 ^ m := by
  apply Nat.eq_of_testBit_eq
  intro i
  simp only [Nat.testBit_and, Nat.testBit_mul_two_pow, Nat.testBit_mod_two_pow, Nat.testBit_two_pow_sub_one,
    Nat.testBit_div_two_pow]
  by_cases h : m ≤ i
  · simp [h, Nat.sub_add_cancel h, Bool.and_comm]
  · simp [h]

/-- Masking group and a run of the lowest bits. -/
theorem nat_and_group_low (k a : Nat) (hk : k ≤ 12) :
    a &&& (0xF000 ||| (2 ^ k - 1)) = a / 2 ^ 12 % 2 ^ 4 * 2 ^ 12 + a % 2 ^ k := by
  have h1 := nat_and_run 4 12 a
  have h2 := nat_and_run k 0 a
  simp only [Nat.pow_zero, Nat.mul_one, Nat.div_one] at h2
  have hlt : a % 2 ^ k < 2 ^ 12 := Nat.lt_of_lt_of_le (Nat.mod_lt _ (Nat.two_pow_pos k)) (Nat.pow_le_pow_right (by decide) hk)
  rw [Nat.and_or_distrib_left, show (0xF000 : Nat) = (2 ^ 4 - 1) * 2 ^ 12 by decide, h1, h2, Nat.mul_comm _ (2 ^ 12),
    ← Nat.two_pow_add_eq_or_of_lt hlt]

/-- The bits a group-only row fixes (formats FA, FXK, FXYN). -/
theorem and_F000 (w : Word) : w &&& 0xF000#16 = encodeA w.group 0#12 := by
  apply BitVec.eq_of_toNat_eq
  have := nat_and_group_low 0 w.toNat (by decide)
  simp [encodeA, Word.group] at *
  omega

/-- The bits a row of format FXY fixes. -/
theorem and_F00F (w : Word) : w &&& 0xF00F#16 = encodeXY w.group 0#4 0#4 w.n := by
  apply BitVec.eq_of_toNat_eq
  have := nat_and_group_low 4 w.toNat (by decide)
  simp [encodeXY, Word.group, Word.n] at *
  omega

/-- The bits a row of format FX fixes. -/
theorem and_F0FF (w : Word) : w &&& 0xF0FF#16 = encodeXK w.group 0#4 w.nn := by
  apply BitVec.eq_of_toNat_eq
  have := nat_and_group_low 8 w.toNat (by decide)
  simp [encodeXK, Word.group, Word.nn] at *
  omega

end Sys2Proof
end

