-- ==== Sys2Proof/Laws/Display.lean ====
section
/-!
SUPPORT. Laws of the framebuffer, of the compositor's innermost step and of one sprite row.
-/
namespace Sys2Proof.Machine

/-- Reading a pixel after writing one (10_state.md R43). -/
@[simp] theorem Framebuffer.pixel_setPixel (fb : Framebuffer) (x y x' y' : Nat) (b : Bool) :
    (fb.setPixel x y b).pixel x' y' = if x' = x ∧ y' = y ∧ x < 64 ∧ y < 32 then b else fb.pixel x' y' := by
  unfold Framebuffer.setPixel Framebuffer.pixel
  by_cases h : x < 64 ∧ y < 32
  · rw [dif_pos h]
    by_cases h' : x' < 64 ∧ y' < 32
    · rw [dif_pos h']
      by_cases hy : y = y'
      · subst hy
        by_cases hx : x = x'
        · subst hx; simp [h]
        · simp [hx, h', Ne.symm hx]
      · simp [hy, h', Ne.symm hy]
    · rw [dif_neg h', if_neg (by omega), dif_neg h']
  · rw [dif_neg h, if_neg (by omega)]

/-- Every pixel of the blank grid is off. -/
@[simp] theorem Framebuffer.pixel_blank (x y : Nat) : Framebuffer.blank.pixel x y = false := by
  unfold Framebuffer.blank Framebuffer.pixel
  split <;> simp

/-- Outside the grid every pixel reads as off. -/
theorem Framebuffer.pixel_outside (fb : Framebuffer) {x y : Nat} (h : ¬ (x < 64 ∧ y < 32)) : fb.pixel x y = false := by
  unfold Framebuffer.pixel
  rw [dif_neg h]

/-- Two grids with the same pixels are the same grid. -/
theorem Framebuffer.ext_pixel {fb gb : Framebuffer} (h : ∀ x y, x < 64 → y < 32 → fb.pixel x y = gb.pixel x y) :
    fb = gb := by
  apply Vector.ext
  intro y hy
  apply Vector.ext
  intro x hx
  have := h x y hx hy
  simpa [Framebuffer.pixel, hx, hy] using this

/-- The compositor's innermost step: it flips the cell of an on, unclipped sprite pixel, and otherwise does nothing
(43_display.md R191, R194). -/
theorem compositePixel_cases (x0 y0 r : Nat) (row : Byte) (k : Canvas) (c : Nat) :
    (spriteBit row c = true ∧ x0 + c < 64 ∧ y0 + r < 32 ∧
      compositePixel x0 y0 r row k c =
        { fb := k.fb.setPixel (x0 + c) (y0 + r) (!k.fb.pixel (x0 + c) (y0 + r))
          collided := k.collided || k.fb.pixel (x0 + c) (y0 + r)
          events := k.events ++
            [if k.fb.pixel (x0 + c) (y0 + r) then .unset (x0 + c) (y0 + r) else .set (x0 + c) (y0 + r)] }) ∨
    (¬ (spriteBit row c = true ∧ x0 + c < 64 ∧ y0 + r < 32) ∧ compositePixel x0 y0 r row k c = k) := by
  have hc : (spriteBit row c && decide (x0 + c < displayW ∧ y0 + r < displayH)) = true ↔
      spriteBit row c = true ∧ x0 + c < 64 ∧ y0 + r < 32 := by
    rw [Bool.and_eq_true, decide_eq_true_iff]
    rfl
  unfold compositePixel
  by_cases h : spriteBit row c = true ∧ x0 + c < 64 ∧ y0 + r < 32
  · exact .inl ⟨h.1, h.2.1, h.2.2, by rw [if_pos (hc.2 h)]⟩
  · exact .inr ⟨h, by rw [if_neg (fun e => h (hc.1 e))]⟩

/-- The event of sprite pixel (c, r) on a grid, if it flips a cell (43_display.md R191, R194, R197). -/
def pixelEvent (fb : Framebuffer) (x0 y0 r : Nat) (row : Byte) (c : Nat) : Option DisplayEvent :=
  if x0 + c < 64 ∧ y0 + r < 32 ∧ spriteBit row c = true then
    some (if fb.pixel (x0 + c) (y0 + r) = true then .unset (x0 + c) (y0 + r) else .set (x0 + c) (y0 + r))
  else none

/-- Grid cell (px, py) lies under an on pixel of the first `k` columns of sprite row `r` (R195). -/
def rowCovers (x0 y0 r : Nat) (row : Byte) (k px py : Nat) : Bool :=
  decide (py = y0 + r ∧ x0 ≤ px ∧ px < x0 + k) && spriteBit row (px - x0)

/-- What the first `k` columns of a sprite row do: they flip the cells they cover, note whether one of those was on, and
emit one event for each (43_display.md R191, R192). -/
theorem compositePixel_foldl (x0 y0 r : Nat) (row : Byte) (K : Canvas) : ∀ k : Nat,
    let F := (List.range k).foldl (compositePixel x0 y0 r row) K
    (∀ px py, px < 64 → py < 32 → F.fb.pixel px py = (K.fb.pixel px py ^^ rowCovers x0 y0 r row k px py)) ∧
    (F.collided = true ↔ K.collided = true ∨
      ∃ px py, px < 64 ∧ py < 32 ∧ K.fb.pixel px py = true ∧ rowCovers x0 y0 r row k px py = true) ∧
    F.events = K.events ++ (List.range k).filterMap (pixelEvent K.fb x0 y0 r row)
  | 0 => by
    have hz : ∀ px py, rowCovers x0 y0 r row 0 px py = false := by
      intro px py; simp only [rowCovers]; rw [decide_eq_false (by omega)]; rfl
    simp [hz]
  | k + 1 => by
    obtain ⟨h1, h2, h3⟩ := compositePixel_foldl x0 y0 r row K k
    simp only [List.range_succ, List.foldl_append, List.foldl_cons, List.foldl_nil, List.filterMap_append] at *
    generalize hG : (List.range k).foldl (compositePixel x0 y0 r row) K = G at *
    have hold : x0 + k < 64 → y0 + r < 32 → G.fb.pixel (x0+k) (y0+r) = K.fb.pixel (x0+k) (y0+r) := by
      intro a b; rw [h1 _ _ a b]; simp [rowCovers]
    rcases compositePixel_cases x0 y0 r row G k with ⟨a, b, c, e⟩ | ⟨a, e⟩
    · rw [e]
      have ho := hold b c
      refine ⟨?_, ?_, ?_⟩
      · intro px py hx hy
        simp only [Framebuffer.pixel_setPixel]
        by_cases hp : px = x0 + k ∧ py = y0 + r
        · obtain ⟨rfl, rfl⟩ := hp
          rw [if_pos ⟨rfl, rfl, b, c⟩, ho]; simp [rowCovers, a]
        · rw [if_neg (by omega), h1 _ _ hx hy]; simp only [rowCovers]; congr 2; exact decide_eq_decide.2 (by omega)
      · simp only [Bool.or_eq_true, h2]
        rw [ho]
        constructor
        · rintro ((h | ⟨px, py, h⟩) | h)
          · exact .inl h
          · refine .inr ⟨px, py, h.1, h.2.1, h.2.2.1, ?_⟩
            have := h.2.2.2; simp only [rowCovers, Bool.and_eq_true, decide_eq_true_eq] at this ⊢; exact ⟨by omega, this.2⟩
          · exact .inr ⟨x0 + k, y0 + r, b, c, h, by simp [rowCovers, a]⟩
        · rintro (h | ⟨px, py, h5, h6, h7, h8⟩)
          · exact .inl (.inl h)
          · by_cases hp : px = x0 + k
            · subst hp; simp only [rowCovers, Bool.and_eq_true, decide_eq_true_eq] at h8; rw [h8.1.1] at h7; exact .inr h7
            · refine .inl (.inr ⟨px, py, h5, h6, h7, ?_⟩)
              simp only [rowCovers, Bool.and_eq_true, decide_eq_true_eq] at h8 ⊢; exact ⟨by omega, h8.2⟩
      · rw [h3]; simp [pixelEvent, a, b, c, ho]
    · rw [e]
      refine ⟨?_, ?_, ?_⟩
      · intro px py hx hy
        rw [h1 _ _ hx hy]; simp only [rowCovers]; congr 1
        by_cases hp : px = x0 + k ∧ py = y0 + r
        · obtain ⟨rfl, rfl⟩ := hp; simp; by_cases hb : spriteBit row k = true
          · exact absurd ⟨hb, hx, hy⟩ a
          · simpa using hb
        · congr 1; exact decide_eq_decide.2 (by omega)
      · rw [h2]
        constructor
        · rintro (h | ⟨px, py, h⟩)
          · exact .inl h
          · refine .inr ⟨px, py, h.1, h.2.1, h.2.2.1, ?_⟩
            have := h.2.2.2; simp only [rowCovers, Bool.and_eq_true, decide_eq_true_eq] at this ⊢; exact ⟨by omega, this.2⟩
        · rintro (h | ⟨px, py, h5, h6, h7, h8⟩)
          · exact .inl h
          · refine .inr ⟨px, py, h5, h6, h7, ?_⟩
            simp only [rowCovers, Bool.and_eq_true, decide_eq_true_eq] at h8 ⊢
            refine ⟨?_, h8.2⟩
            by_cases hp : px = x0 + k
            · subst hp; rw [Nat.add_sub_cancel_left] at h8; exact absurd ⟨h8.2, h5, by have := h8.1.1; omega⟩ a
            · omega
      · rw [h3]; simp only [List.filterMap_cons, List.filterMap_nil, pixelEvent]
        rw [if_neg (by intro h; exact a ⟨h.2.2, h.1, h.2.1⟩)]; simp

/-- What one sprite row does (R191, R192). -/
theorem compositeRow_spec (x0 y0 r : Nat) (row : Byte) (K : Canvas) :
    (∀ px py, px < 64 → py < 32 →
      (compositeRow x0 y0 r row K).fb.pixel px py = (K.fb.pixel px py ^^ rowCovers x0 y0 r row 8 px py)) ∧
    ((compositeRow x0 y0 r row K).collided = true ↔ K.collided = true ∨
      ∃ px py, px < 64 ∧ py < 32 ∧ K.fb.pixel px py = true ∧ rowCovers x0 y0 r row 8 px py = true) ∧
    (compositeRow x0 y0 r row K).events =
      K.events ++ (List.range 8).filterMap (pixelEvent K.fb x0 y0 r row) :=
  compositePixel_foldl x0 y0 r row K 8

end Sys2Proof.Machine
end

