-- ==== Sys2Proof/Laws/Memory.lean ====
section
/-!
SUPPORT. Laws of Memory: read after write, the canonical form kept by every operation, equal reads give equal memories.
-/
namespace Sys2Proof.Machine

@[simp] theorem Memory.read_nil (a : Nat) : Memory.read [] a = unlistedByte := rfl

@[simp] theorem Memory.read_cons (k a : Nat) (b : Byte) (m : Memory) :
    Memory.read ((k, b) :: m) a = if a = k then b else Memory.read m a := rfl

theorem Memory.wfFrom_cons (lo k : Nat) (b : Byte) (m : Memory) :
    Memory.wfFrom lo ((k, b) :: m) = true ↔
      lo ≤ k ∧ k < memSize ∧ b ≠ unlistedByte ∧ Memory.wfFrom (k + 1) m = true := by
  simp [Memory.wfFrom, and_assoc]

theorem Memory.wfFrom_mono {lo lo' : Nat} (h : lo' ≤ lo) : ∀ {m : Memory}, m.wfFrom lo = true → m.wfFrom lo' = true
  | [], _ => rfl
  | (k, b) :: m, hm => by
    rw [Memory.wfFrom_cons] at hm ⊢
    exact ⟨Nat.le_trans h hm.1, hm.2⟩

/-- Below its first address a canonical memory reads as unlisted. -/
theorem Memory.read_below {a : Nat} : ∀ {lo : Nat} {m : Memory}, m.wfFrom lo = true → a < lo → m.read a = unlistedByte
  | _, [], _, _ => rfl
  | lo, (k, b) :: m, hm, ha => by
    rw [Memory.wfFrom_cons] at hm
    rw [Memory.read_cons, if_neg (by omega)]
    exact Memory.read_below hm.2.2.2 (by omega)

/-- Past the end of Memory a canonical memory reads as unlisted. -/
theorem Memory.read_above {a : Nat} (ha : memSize ≤ a) :
    ∀ {lo : Nat} {m : Memory}, m.wfFrom lo = true → m.read a = unlistedByte
  | _, [], _ => rfl
  | lo, (k, b) :: m, hm => by
    rw [Memory.wfFrom_cons] at hm
    rw [Memory.read_cons, if_neg (by omega)]
    exact Memory.read_above ha hm.2.2.2

/-- A write leaves every other address alone. -/
theorem Memory.read_write_other {a c : Nat} (b : Byte) (h : c ≠ a) : ∀ m : Memory, (m.write a b).read c = m.read c
  | [] => by
    unfold Memory.write
    split <;> simp [h]
  | (k, d) :: m => by
    unfold Memory.write
    split
    · split <;> simp [h]
    · split
      · split <;> simp_all
      · simp [Memory.read_write_other b h m]

/-- In a canonical memory a read of the written address gives the byte written. -/
theorem Memory.read_write_same {a : Nat} (b : Byte) :
    ∀ {lo : Nat} {m : Memory}, m.wfFrom lo = true → (m.write a b).read a = b
  | _, [], _ => by
    unfold Memory.write
    split <;> simp_all
  | lo, (k, d) :: m, hm => by
    rw [Memory.wfFrom_cons] at hm
    unfold Memory.write
    split
    · rename_i hlt
      split
      · rename_i hb
        rw [Memory.read_cons, if_neg (by omega), hb]
        exact Memory.read_below hm.2.2.2 (by omega)
      · simp
    · split
      · rename_i heq
        split
        · rename_i hb
          rw [hb]
          exact Memory.read_below hm.2.2.2 (by omega)
        · simp
      · rename_i hne
        rw [Memory.read_cons, if_neg hne]
        exact Memory.read_write_same b hm.2.2.2

/-- A write inside Memory keeps the canonical form. -/
theorem Memory.wfFrom_write {a : Nat} (b : Byte) (ha : a < memSize) :
    ∀ {lo : Nat} {m : Memory}, lo ≤ a → m.wfFrom lo = true → (m.write a b).wfFrom lo = true
  | lo, [], hlo, _ => by
    unfold Memory.write
    split
    · rfl
    · rename_i hb
      rw [Memory.wfFrom_cons]
      exact ⟨hlo, ha, hb, rfl⟩
  | lo, (k, d) :: m, hlo, hm => by
    have h := (Memory.wfFrom_cons lo k d m).1 hm
    unfold Memory.write
    split
    · split
      · exact hm
      · rename_i hlt hb
        rw [Memory.wfFrom_cons, Memory.wfFrom_cons]
        exact ⟨hlo, ha, hb, hlt, h.2⟩
    · split
      · rename_i heq
        split
        · exact Memory.wfFrom_mono (by omega) h.2.2.2
        · rename_i hb
          rw [Memory.wfFrom_cons, heq]
          exact ⟨h.1, h.2.1, hb, h.2.2.2⟩
      · rw [Memory.wfFrom_cons]
        exact ⟨h.1, h.2.1, h.2.2.1, Memory.wfFrom_write b ha (by omega) h.2.2.2⟩

theorem Memory.wf_write {a : Nat} (b : Byte) (ha : a < memSize) {m : Memory} (hm : m.wf = true) :
    (m.write a b).wf = true := Memory.wfFrom_write b ha (Nat.zero_le a) hm

/-- Bytes written inside Memory keep the canonical form. -/
theorem Memory.wf_writeFrom : ∀ (bs : List Byte) {a : Nat} {m : Memory}, a + bs.length ≤ memSize → m.wf = true →
    (m.writeFrom a bs).wf = true
  | [], _, _, _, hm => hm
  | b :: bs, a, m, ha, hm => by
    simp only [List.length_cons] at ha
    exact Memory.wf_writeFrom bs (by omega) (Memory.wf_write b (by omega) hm)

/-- What a clamped run of bytes covers (20_memory.md R63). -/
theorem clampLen_le (a : Addr) (n : Nat) : a.toNat + clampLen a n ≤ memSize := by
  have := a.isLt
  simp only [clampLen, memSize] at *
  omega

/-- The clamped write keeps the canonical form (R63). -/
theorem Memory.wf_memWrite {m : Memory} (a : Addr) (bs : List Byte) (hm : m.wf = true) :
    (m.memWrite a bs).wf = true := by
  refine Memory.wf_writeFrom _ ?_ hm
  have := clampLen_le a bs.length
  rw [List.length_take]
  omega

/-- A run of writes leaves every address outside it alone. -/
theorem Memory.read_writeFrom_outside {c : Nat} : ∀ (bs : List Byte) {a : Nat} (m : Memory),
    (c < a ∨ a + bs.length ≤ c) → (m.writeFrom a bs).read c = m.read c
  | [], _, _, _ => rfl
  | b :: bs, a, m, h => by
    simp only [List.length_cons] at h
    simp only [Memory.writeFrom]
    rw [Memory.read_writeFrom_outside bs _ (by omega), Memory.read_write_other b (by omega)]

/-- In a canonical memory a run of writes puts byte `j` at address `a + j`. -/
theorem Memory.read_writeFrom_inside : ∀ (bs : List Byte) {a j : Nat} {m : Memory}, a + bs.length ≤ memSize →
    m.wf = true → (h : j < bs.length) → (m.writeFrom a bs).read (a + j) = bs[j]
  | b :: bs, a, 0, m, ha, hm, _ => by
    simp only [Memory.writeFrom]
    rw [Memory.read_writeFrom_outside bs _ (by omega)]
    exact Memory.read_write_same b hm
  | b :: bs, a, j + 1, m, ha, hm, h => by
    simp only [List.length_cons] at ha h
    simp only [Memory.writeFrom, List.getElem_cons_succ]
    rw [show a + (j + 1) = a + 1 + j by omega]
    exact Memory.read_writeFrom_inside bs (by omega) (Memory.wf_write b (by omega) hm) (by omega)

/-- The clamped write leaves every address alone that it does not reach (R63). -/
theorem Memory.read_memWrite_outside {c : Nat} (m : Memory) (a : Addr) (bs : List Byte)
    (h : c < a.toNat ∨ a.toNat + clampLen a bs.length ≤ c) : (m.memWrite a bs).read c = m.read c := by
  refine Memory.read_writeFrom_outside _ _ ?_
  rw [List.length_take]
  omega

/-- The clamped write puts byte `j` at `a + j` for every byte that lies in Memory (R63). -/
theorem Memory.read_memWrite_inside {m : Memory} (a : Addr) (bs : List Byte) (hm : m.wf = true) {j : Nat}
    (h : j < clampLen a bs.length) :
    (m.memWrite a bs).read (a.toNat + j) = bs[j]'(by simp only [clampLen] at h; omega) := by
  have hc := clampLen_le a bs.length
  unfold Memory.memWrite
  rw [Memory.read_writeFrom_inside _ (by rw [List.length_take]; omega) hm (by rw [List.length_take]; simp only [clampLen] at h ⊢; omega)]
  simp

@[simp] theorem Memory.length_memRead (m : Memory) (a : Addr) (n : Nat) : (m.memRead a n).length = clampLen a n := by
  simp [Memory.memRead]

@[simp] theorem Memory.getElem_memRead (m : Memory) (a : Addr) (n j : Nat) (h : j < (m.memRead a n).length) :
    (m.memRead a n)[j] = m.read (a.toNat + j) := by
  simp [Memory.memRead]

end Sys2Proof.Machine
end

