-- ==== Sys2Proof/Laws/State.lean ====
section
/-!
SUPPORT. Laws of State: one lemma per field per update, and reading a register past an update of something else.
-/
namespace Sys2Proof.Machine

variable (s : State)

/-! ### setReg -/

@[simp] theorem State.setReg_v (x : Nibble) (b : Byte) : (s.setReg x b).v = s.v.set x.toNat b x.isLt := rfl
@[simp] theorem State.setReg_i (x : Nibble) (b : Byte) : (s.setReg x b).i = s.i := rfl
@[simp] theorem State.setReg_pc (x : Nibble) (b : Byte) : (s.setReg x b).pc = s.pc := rfl
@[simp] theorem State.setReg_sp (x : Nibble) (b : Byte) : (s.setReg x b).sp = s.sp := rfl
@[simp] theorem State.setReg_dt (x : Nibble) (b : Byte) : (s.setReg x b).dt = s.dt := rfl
@[simp] theorem State.setReg_st (x : Nibble) (b : Byte) : (s.setReg x b).st = s.st := rfl
@[simp] theorem State.setReg_fb (x : Nibble) (b : Byte) : (s.setReg x b).fb = s.fb := rfl
@[simp] theorem State.setReg_mem (x : Nibble) (b : Byte) : (s.setReg x b).mem = s.mem := rfl
@[simp] theorem State.setReg_status (x : Nibble) (b : Byte) : (s.setReg x b).status = s.status := rfl
@[simp] theorem State.setReg_params (x : Nibble) (b : Byte) : (s.setReg x b).params = s.params := rfl
@[simp] theorem State.setReg_keyPort (x : Nibble) (b : Byte) : (s.setReg x b).keyPort = s.keyPort := rfl
@[simp] theorem State.setReg_randPort (x : Nibble) (b : Byte) : (s.setReg x b).randPort = s.randPort := rfl
@[simp] theorem State.setReg_tickPort (x : Nibble) (b : Byte) : (s.setReg x b).tickPort = s.tickPort := rfl
@[simp] theorem State.setReg_draws (x : Nibble) (b : Byte) : (s.setReg x b).draws = s.draws := rfl
@[simp] theorem State.setReg_events (x : Nibble) (b : Byte) : (s.setReg x b).events = s.events := rfl

/-! ### setRegs -/

@[simp] theorem State.setRegs_v (r : Regs) : (s.setRegs r).v = r := rfl
@[simp] theorem State.setRegs_i (r : Regs) : (s.setRegs r).i = s.i := rfl
@[simp] theorem State.setRegs_pc (r : Regs) : (s.setRegs r).pc = s.pc := rfl
@[simp] theorem State.setRegs_sp (r : Regs) : (s.setRegs r).sp = s.sp := rfl
@[simp] theorem State.setRegs_dt (r : Regs) : (s.setRegs r).dt = s.dt := rfl
@[simp] theorem State.setRegs_st (r : Regs) : (s.setRegs r).st = s.st := rfl
@[simp] theorem State.setRegs_fb (r : Regs) : (s.setRegs r).fb = s.fb := rfl
@[simp] theorem State.setRegs_mem (r : Regs) : (s.setRegs r).mem = s.mem := rfl
@[simp] theorem State.setRegs_status (r : Regs) : (s.setRegs r).status = s.status := rfl
@[simp] theorem State.setRegs_params (r : Regs) : (s.setRegs r).params = s.params := rfl
@[simp] theorem State.setRegs_keyPort (r : Regs) : (s.setRegs r).keyPort = s.keyPort := rfl
@[simp] theorem State.setRegs_randPort (r : Regs) : (s.setRegs r).randPort = s.randPort := rfl
@[simp] theorem State.setRegs_tickPort (r : Regs) : (s.setRegs r).tickPort = s.tickPort := rfl
@[simp] theorem State.setRegs_draws (r : Regs) : (s.setRegs r).draws = s.draws := rfl
@[simp] theorem State.setRegs_events (r : Regs) : (s.setRegs r).events = s.events := rfl

/-! ### setI -/

@[simp] theorem State.setI_v (a : Addr) : (s.setI a).v = s.v := rfl
@[simp] theorem State.setI_i (a : Addr) : (s.setI a).i = a := rfl
@[simp] theorem State.setI_pc (a : Addr) : (s.setI a).pc = s.pc := rfl
@[simp] theorem State.setI_sp (a : Addr) : (s.setI a).sp = s.sp := rfl
@[simp] theorem State.setI_dt (a : Addr) : (s.setI a).dt = s.dt := rfl
@[simp] theorem State.setI_st (a : Addr) : (s.setI a).st = s.st := rfl
@[simp] theorem State.setI_fb (a : Addr) : (s.setI a).fb = s.fb := rfl
@[simp] theorem State.setI_mem (a : Addr) : (s.setI a).mem = s.mem := rfl
@[simp] theorem State.setI_status (a : Addr) : (s.setI a).status = s.status := rfl
@[simp] theorem State.setI_params (a : Addr) : (s.setI a).params = s.params := rfl
@[simp] theorem State.setI_keyPort (a : Addr) : (s.setI a).keyPort = s.keyPort := rfl
@[simp] theorem State.setI_randPort (a : Addr) : (s.setI a).randPort = s.randPort := rfl
@[simp] theorem State.setI_tickPort (a : Addr) : (s.setI a).tickPort = s.tickPort := rfl
@[simp] theorem State.setI_draws (a : Addr) : (s.setI a).draws = s.draws := rfl
@[simp] theorem State.setI_events (a : Addr) : (s.setI a).events = s.events := rfl
@[simp] theorem State.setI_reg (a : Addr) (x' : Nibble) : (s.setI a).reg x' = s.reg x' := rfl

/-! ### setPc -/

@[simp] theorem State.setPc_v (a : Addr) : (s.setPc a).v = s.v := rfl
@[simp] theorem State.setPc_i (a : Addr) : (s.setPc a).i = s.i := rfl
@[simp] theorem State.setPc_pc (a : Addr) : (s.setPc a).pc = a := rfl
@[simp] theorem State.setPc_sp (a : Addr) : (s.setPc a).sp = s.sp := rfl
@[simp] theorem State.setPc_dt (a : Addr) : (s.setPc a).dt = s.dt := rfl
@[simp] theorem State.setPc_st (a : Addr) : (s.setPc a).st = s.st := rfl
@[simp] theorem State.setPc_fb (a : Addr) : (s.setPc a).fb = s.fb := rfl
@[simp] theorem State.setPc_mem (a : Addr) : (s.setPc a).mem = s.mem := rfl
@[simp] theorem State.setPc_status (a : Addr) : (s.setPc a).status = s.status := rfl
@[simp] theorem State.setPc_params (a : Addr) : (s.setPc a).params = s.params := rfl
@[simp] theorem State.setPc_keyPort (a : Addr) : (s.setPc a).keyPort = s.keyPort := rfl
@[simp] theorem State.setPc_randPort (a : Addr) : (s.setPc a).randPort = s.randPort := rfl
@[simp] theorem State.setPc_tickPort (a : Addr) : (s.setPc a).tickPort = s.tickPort := rfl
@[simp] theorem State.setPc_draws (a : Addr) : (s.setPc a).draws = s.draws := rfl
@[simp] theorem State.setPc_events (a : Addr) : (s.setPc a).events = s.events := rfl
@[simp] theorem State.setPc_reg (a : Addr) (x' : Nibble) : (s.setPc a).reg x' = s.reg x' := rfl

/-! ### setSp -/

@[simp] theorem State.setSp_v (n : Nat) : (s.setSp n).v = s.v := rfl
@[simp] theorem State.setSp_i (n : Nat) : (s.setSp n).i = s.i := rfl
@[simp] theorem State.setSp_pc (n : Nat) : (s.setSp n).pc = s.pc := rfl
@[simp] theorem State.setSp_sp (n : Nat) : (s.setSp n).sp = n := rfl
@[simp] theorem State.setSp_dt (n : Nat) : (s.setSp n).dt = s.dt := rfl
@[simp] theorem State.setSp_st (n : Nat) : (s.setSp n).st = s.st := rfl
@[simp] theorem State.setSp_fb (n : Nat) : (s.setSp n).fb = s.fb := rfl
@[simp] theorem State.setSp_mem (n : Nat) : (s.setSp n).mem = s.mem := rfl
@[simp] theorem State.setSp_status (n : Nat) : (s.setSp n).status = s.status := rfl
@[simp] theorem State.setSp_params (n : Nat) : (s.setSp n).params = s.params := rfl
@[simp] theorem State.setSp_keyPort (n : Nat) : (s.setSp n).keyPort = s.keyPort := rfl
@[simp] theorem State.setSp_randPort (n : Nat) : (s.setSp n).randPort = s.randPort := rfl
@[simp] theorem State.setSp_tickPort (n : Nat) : (s.setSp n).tickPort = s.tickPort := rfl
@[simp] theorem State.setSp_draws (n : Nat) : (s.setSp n).draws = s.draws := rfl
@[simp] theorem State.setSp_events (n : Nat) : (s.setSp n).events = s.events := rfl
@[simp] theorem State.setSp_reg (n : Nat) (x' : Nibble) : (s.setSp n).reg x' = s.reg x' := rfl

/-! ### setDt -/

@[simp] theorem State.setDt_v (b : Byte) : (s.setDt b).v = s.v := rfl
@[simp] theorem State.setDt_i (b : Byte) : (s.setDt b).i = s.i := rfl
@[simp] theorem State.setDt_pc (b : Byte) : (s.setDt b).pc = s.pc := rfl
@[simp] theorem State.setDt_sp (b : Byte) : (s.setDt b).sp = s.sp := rfl
@[simp] theorem State.setDt_dt (b : Byte) : (s.setDt b).dt = b := rfl
@[simp] theorem State.setDt_st (b : Byte) : (s.setDt b).st = s.st := rfl
@[simp] theorem State.setDt_fb (b : Byte) : (s.setDt b).fb = s.fb := rfl
@[simp] theorem State.setDt_mem (b : Byte) : (s.setDt b).mem = s.mem := rfl
@[simp] theorem State.setDt_status (b : Byte) : (s.setDt b).status = s.status := rfl
@[simp] theorem State.setDt_params (b : Byte) : (s.setDt b).params = s.params := rfl
@[simp] theorem State.setDt_keyPort (b : Byte) : (s.setDt b).keyPort = s.keyPort := rfl
@[simp] theorem State.setDt_randPort (b : Byte) : (s.setDt b).randPort = s.randPort := rfl
@[simp] theorem State.setDt_tickPort (b : Byte) : (s.setDt b).tickPort = s.tickPort := rfl
@[simp] theorem State.setDt_draws (b : Byte) : (s.setDt b).draws = s.draws := rfl
@[simp] theorem State.setDt_events (b : Byte) : (s.setDt b).events = s.events := rfl
@[simp] theorem State.setDt_reg (b : Byte) (x' : Nibble) : (s.setDt b).reg x' = s.reg x' := rfl

/-! ### setSt -/

@[simp] theorem State.setSt_v (b : Byte) : (s.setSt b).v = s.v := rfl
@[simp] theorem State.setSt_i (b : Byte) : (s.setSt b).i = s.i := rfl
@[simp] theorem State.setSt_pc (b : Byte) : (s.setSt b).pc = s.pc := rfl
@[simp] theorem State.setSt_sp (b : Byte) : (s.setSt b).sp = s.sp := rfl
@[simp] theorem State.setSt_dt (b : Byte) : (s.setSt b).dt = s.dt := rfl
@[simp] theorem State.setSt_st (b : Byte) : (s.setSt b).st = b := rfl
@[simp] theorem State.setSt_fb (b : Byte) : (s.setSt b).fb = s.fb := rfl
@[simp] theorem State.setSt_mem (b : Byte) : (s.setSt b).mem = s.mem := rfl
@[simp] theorem State.setSt_status (b : Byte) : (s.setSt b).status = s.status := rfl
@[simp] theorem State.setSt_params (b : Byte) : (s.setSt b).params = s.params := rfl
@[simp] theorem State.setSt_keyPort (b : Byte) : (s.setSt b).keyPort = s.keyPort := rfl
@[simp] theorem State.setSt_randPort (b : Byte) : (s.setSt b).randPort = s.randPort := rfl
@[simp] theorem State.setSt_tickPort (b : Byte) : (s.setSt b).tickPort = s.tickPort := rfl
@[simp] theorem State.setSt_draws (b : Byte) : (s.setSt b).draws = s.draws := rfl
@[simp] theorem State.setSt_events (b : Byte) : (s.setSt b).events = s.events := rfl
@[simp] theorem State.setSt_reg (b : Byte) (x' : Nibble) : (s.setSt b).reg x' = s.reg x' := rfl

/-! ### setMem -/

@[simp] theorem State.setMem_v (m : Memory) : (s.setMem m).v = s.v := rfl
@[simp] theorem State.setMem_i (m : Memory) : (s.setMem m).i = s.i := rfl
@[simp] theorem State.setMem_pc (m : Memory) : (s.setMem m).pc = s.pc := rfl
@[simp] theorem State.setMem_sp (m : Memory) : (s.setMem m).sp = s.sp := rfl
@[simp] theorem State.setMem_dt (m : Memory) : (s.setMem m).dt = s.dt := rfl
@[simp] theorem State.setMem_st (m : Memory) : (s.setMem m).st = s.st := rfl
@[simp] theorem State.setMem_fb (m : Memory) : (s.setMem m).fb = s.fb := rfl
@[simp] theorem State.setMem_mem (m : Memory) : (s.setMem m).mem = m := rfl
@[simp] theorem State.setMem_status (m : Memory) : (s.setMem m).status = s.status := rfl
@[simp] theorem State.setMem_params (m : Memory) : (s.setMem m).params = s.params := rfl
@[simp] theorem State.setMem_keyPort (m : Memory) : (s.setMem m).keyPort = s.keyPort := rfl
@[simp] theorem State.setMem_randPort (m : Memory) : (s.setMem m).randPort = s.randPort := rfl
@[simp] theorem State.setMem_tickPort (m : Memory) : (s.setMem m).tickPort = s.tickPort := rfl
@[simp] theorem State.setMem_draws (m : Memory) : (s.setMem m).draws = s.draws := rfl
@[simp] theorem State.setMem_events (m : Memory) : (s.setMem m).events = s.events := rfl
@[simp] theorem State.setMem_reg (m : Memory) (x' : Nibble) : (s.setMem m).reg x' = s.reg x' := rfl

/-! ### setDisplay -/

@[simp] theorem State.setDisplay_v (f : Framebuffer) (e : List DisplayEvent) : (s.setDisplay f e).v = s.v := rfl
@[simp] theorem State.setDisplay_i (f : Framebuffer) (e : List DisplayEvent) : (s.setDisplay f e).i = s.i := rfl
@[simp] theorem State.setDisplay_pc (f : Framebuffer) (e : List DisplayEvent) : (s.setDisplay f e).pc = s.pc := rfl
@[simp] theorem State.setDisplay_sp (f : Framebuffer) (e : List DisplayEvent) : (s.setDisplay f e).sp = s.sp := rfl
@[simp] theorem State.setDisplay_dt (f : Framebuffer) (e : List DisplayEvent) : (s.setDisplay f e).dt = s.dt := rfl
@[simp] theorem State.setDisplay_st (f : Framebuffer) (e : List DisplayEvent) : (s.setDisplay f e).st = s.st := rfl
@[simp] theorem State.setDisplay_fb (f : Framebuffer) (e : List DisplayEvent) : (s.setDisplay f e).fb = f := rfl
@[simp] theorem State.setDisplay_mem (f : Framebuffer) (e : List DisplayEvent) : (s.setDisplay f e).mem = s.mem := rfl
@[simp] theorem State.setDisplay_status (f : Framebuffer) (e : List DisplayEvent) : (s.setDisplay f e).status = s.status := rfl
@[simp] theorem State.setDisplay_params (f : Framebuffer) (e : List DisplayEvent) : (s.setDisplay f e).params = s.params := rfl
@[simp] theorem State.setDisplay_keyPort (f : Framebuffer) (e : List DisplayEvent) : (s.setDisplay f e).keyPort = s.keyPort := rfl
@[simp] theorem State.setDisplay_randPort (f : Framebuffer) (e : List DisplayEvent) : (s.setDisplay f e).randPort = s.randPort := rfl
@[simp] theorem State.setDisplay_tickPort (f : Framebuffer) (e : List DisplayEvent) : (s.setDisplay f e).tickPort = s.tickPort := rfl
@[simp] theorem State.setDisplay_draws (f : Framebuffer) (e : List DisplayEvent) : (s.setDisplay f e).draws = s.draws := rfl
@[simp] theorem State.setDisplay_events (f : Framebuffer) (e : List DisplayEvent) : (s.setDisplay f e).events = e := rfl
@[simp] theorem State.setDisplay_reg (f : Framebuffer) (e : List DisplayEvent) (x' : Nibble) : (s.setDisplay f e).reg x' = s.reg x' := rfl

/-! ### raise -/

@[simp] theorem State.raise_v (c : Cause) (p : Addr) (w : Option Word) : (s.raise c p w).v = s.v := rfl
@[simp] theorem State.raise_i (c : Cause) (p : Addr) (w : Option Word) : (s.raise c p w).i = s.i := rfl
@[simp] theorem State.raise_pc (c : Cause) (p : Addr) (w : Option Word) : (s.raise c p w).pc = s.pc := rfl
@[simp] theorem State.raise_sp (c : Cause) (p : Addr) (w : Option Word) : (s.raise c p w).sp = s.sp := rfl
@[simp] theorem State.raise_dt (c : Cause) (p : Addr) (w : Option Word) : (s.raise c p w).dt = s.dt := rfl
@[simp] theorem State.raise_st (c : Cause) (p : Addr) (w : Option Word) : (s.raise c p w).st = s.st := rfl
@[simp] theorem State.raise_fb (c : Cause) (p : Addr) (w : Option Word) : (s.raise c p w).fb = s.fb := rfl
@[simp] theorem State.raise_mem (c : Cause) (p : Addr) (w : Option Word) : (s.raise c p w).mem = s.mem := rfl
@[simp] theorem State.raise_status (c : Cause) (p : Addr) (w : Option Word) : (s.raise c p w).status = .halted c p w := rfl
@[simp] theorem State.raise_params (c : Cause) (p : Addr) (w : Option Word) : (s.raise c p w).params = s.params := rfl
@[simp] theorem State.raise_keyPort (c : Cause) (p : Addr) (w : Option Word) : (s.raise c p w).keyPort = s.keyPort := rfl
@[simp] theorem State.raise_randPort (c : Cause) (p : Addr) (w : Option Word) : (s.raise c p w).randPort = s.randPort := rfl
@[simp] theorem State.raise_tickPort (c : Cause) (p : Addr) (w : Option Word) : (s.raise c p w).tickPort = s.tickPort := rfl
@[simp] theorem State.raise_draws (c : Cause) (p : Addr) (w : Option Word) : (s.raise c p w).draws = s.draws := rfl
@[simp] theorem State.raise_events (c : Cause) (p : Addr) (w : Option Word) : (s.raise c p w).events = s.events := rfl
@[simp] theorem State.raise_reg (c : Cause) (p : Addr) (w : Option Word) (x' : Nibble) : (s.raise c p w).reg x' = s.reg x' := rfl

/-! ### tick -/

@[simp] theorem State.tick_v : s.tick.v = s.v := rfl
@[simp] theorem State.tick_i : s.tick.i = s.i := rfl
@[simp] theorem State.tick_pc : s.tick.pc = s.pc := rfl
@[simp] theorem State.tick_sp : s.tick.sp = s.sp := rfl
@[simp] theorem State.tick_dt : s.tick.dt = tickByte s.dt := rfl
@[simp] theorem State.tick_st : s.tick.st = tickByte s.st := rfl
@[simp] theorem State.tick_fb : s.tick.fb = s.fb := rfl
@[simp] theorem State.tick_mem : s.tick.mem = s.mem := rfl
@[simp] theorem State.tick_status : s.tick.status = s.status := rfl
@[simp] theorem State.tick_params : s.tick.params = s.params := rfl
@[simp] theorem State.tick_keyPort : s.tick.keyPort = s.keyPort := rfl
@[simp] theorem State.tick_randPort : s.tick.randPort = s.randPort := rfl
@[simp] theorem State.tick_tickPort : s.tick.tickPort = s.tickPort := rfl
@[simp] theorem State.tick_draws : s.tick.draws = s.draws := rfl
@[simp] theorem State.tick_events : s.tick.events = s.events := rfl
@[simp] theorem State.tick_reg (x' : Nibble) : s.tick.reg x' = s.reg x' := rfl

/-! ### drawTick -/

@[simp] theorem State.drawTick_v : s.drawTick.v = s.v := rfl
@[simp] theorem State.drawTick_i : s.drawTick.i = s.i := rfl
@[simp] theorem State.drawTick_pc : s.drawTick.pc = s.pc := rfl
@[simp] theorem State.drawTick_sp : s.drawTick.sp = s.sp := rfl
@[simp] theorem State.drawTick_dt : s.drawTick.dt = s.dt := rfl
@[simp] theorem State.drawTick_st : s.drawTick.st = s.st := rfl
@[simp] theorem State.drawTick_fb : s.drawTick.fb = s.fb := rfl
@[simp] theorem State.drawTick_mem : s.drawTick.mem = s.mem := rfl
@[simp] theorem State.drawTick_status : s.drawTick.status = s.status := rfl
@[simp] theorem State.drawTick_params : s.drawTick.params = s.params := rfl
@[simp] theorem State.drawTick_keyPort : s.drawTick.keyPort = s.keyPort := rfl
@[simp] theorem State.drawTick_randPort : s.drawTick.randPort = s.randPort := rfl
@[simp] theorem State.drawTick_tickPort : s.drawTick.tickPort = Config.stepsToTick s.draws := rfl
@[simp] theorem State.drawTick_draws : s.drawTick.draws = s.draws + 1 := rfl
@[simp] theorem State.drawTick_events : s.drawTick.events = s.events := rfl
@[simp] theorem State.drawTick_reg (x' : Nibble) : s.drawTick.reg x' = s.reg x' := rfl

/-! ### refreshPorts -/

@[simp] theorem State.refreshPorts_v : s.refreshPorts.v = s.v := rfl
@[simp] theorem State.refreshPorts_i : s.refreshPorts.i = s.i := rfl
@[simp] theorem State.refreshPorts_pc : s.refreshPorts.pc = s.pc := rfl
@[simp] theorem State.refreshPorts_sp : s.refreshPorts.sp = s.sp := rfl
@[simp] theorem State.refreshPorts_dt : s.refreshPorts.dt = s.dt := rfl
@[simp] theorem State.refreshPorts_st : s.refreshPorts.st = s.st := rfl
@[simp] theorem State.refreshPorts_fb : s.refreshPorts.fb = s.fb := rfl
@[simp] theorem State.refreshPorts_mem : s.refreshPorts.mem = s.mem := rfl
@[simp] theorem State.refreshPorts_status : s.refreshPorts.status = s.status := rfl
@[simp] theorem State.refreshPorts_params : s.refreshPorts.params = s.params := rfl
@[simp] theorem State.refreshPorts_keyPort : s.refreshPorts.keyPort = Config.keyPoll s.draws := rfl
@[simp] theorem State.refreshPorts_randPort : s.refreshPorts.randPort = Config.randomByte s.draws := rfl
@[simp] theorem State.refreshPorts_tickPort : s.refreshPorts.tickPort = s.tickPort - 1 := rfl
@[simp] theorem State.refreshPorts_draws : s.refreshPorts.draws = s.draws + 1 := rfl
@[simp] theorem State.refreshPorts_events : s.refreshPorts.events = s.events := rfl
@[simp] theorem State.refreshPorts_reg (x' : Nibble) : s.refreshPorts.reg x' = s.reg x' := rfl

/-! ### interpreterNext -/

@[simp] theorem State.interpreterNext_v : s.interpreterNext.v = s.v := rfl
@[simp] theorem State.interpreterNext_i : s.interpreterNext.i = s.i := rfl
@[simp] theorem State.interpreterNext_pc : s.interpreterNext.pc = s.pc := rfl
@[simp] theorem State.interpreterNext_sp : s.interpreterNext.sp = s.sp := rfl
@[simp] theorem State.interpreterNext_dt : s.interpreterNext.dt = s.dt := rfl
@[simp] theorem State.interpreterNext_st : s.interpreterNext.st = s.st := rfl
@[simp] theorem State.interpreterNext_fb : s.interpreterNext.fb = s.fb := rfl
@[simp] theorem State.interpreterNext_mem : s.interpreterNext.mem = s.mem := rfl
@[simp] theorem State.interpreterNext_status : s.interpreterNext.status = s.status := rfl
@[simp] theorem State.interpreterNext_params : s.interpreterNext.params = s.params := rfl
@[simp] theorem State.interpreterNext_keyPort : s.interpreterNext.keyPort = s.keyPort := rfl
@[simp] theorem State.interpreterNext_randPort : s.interpreterNext.randPort = s.randPort := rfl
@[simp] theorem State.interpreterNext_tickPort : s.interpreterNext.tickPort = 1 := rfl
@[simp] theorem State.interpreterNext_draws : s.interpreterNext.draws = s.draws := rfl
@[simp] theorem State.interpreterNext_events : s.interpreterNext.events = s.events := rfl
@[simp] theorem State.interpreterNext_reg (x' : Nibble) : s.interpreterNext.reg x' = s.reg x' := rfl

end Sys2Proof.Machine
end

