-- ==== Sys2Proof/Laws/Registers.lean ====
section
/-!
SUPPORT. Laws of the register file: read after write, the flag-then-result write, LDM's load.
-/
namespace Sys2Proof.Machine

/-- Reading a register after writing one (10_state.md R30). -/
@[simp] theorem State.setReg_reg (s : State) (x y : Nibble) (b : Byte) :
    (s.setReg x b).reg y = if y = x then b else s.reg y := by
  simp only [State.reg, State.setReg, Vector.getElem_set, BitVec.toNat_inj, eq_comm]

/-- After a flagged result, V[x] holds the result, VF the flag unless x is VF (41_register_alu.md R152). -/
@[simp] theorem State.setFlagged_reg (s : State) (x y : Nibble) (f r : Byte) :
    (s.setFlagged x f r).reg y = if y = x then r else if y = flagReg then f else s.reg y := by
  simp [State.setFlagged]

/-- Register `j + k` holds byte `k` after a load from `j` on; the registers outside the run are unchanged. -/
theorem Regs.getElem_load {k : Nat} (hk : k < 16) : ∀ (bs : List Byte) (v : Regs) (j : Nat),
    (Regs.load v j bs)[k] = if h : j ≤ k ∧ k - j < bs.length then bs[k - j]'h.2 else v[k]
  | [], v, j => by simp [Regs.load]
  | b :: bs, v, j => by
    rw [Regs.load, Regs.getElem_load hk bs]
    by_cases hjk : j = k
    · subst hjk
      rw [dif_neg (by omega), dif_pos (by simp)]
      simp
    · by_cases h : j + 1 ≤ k ∧ k - (j + 1) < bs.length
      · rw [dif_pos h, dif_pos (by simp only [List.length_cons]; omega)]
        have : k - j = k - (j + 1) + 1 := by omega
        simp [this]
      · rw [dif_neg h, dif_neg (by simp only [List.length_cons]; omega)]
        simp [hjk]

/-- The registers past an LDM's run. -/
@[simp] theorem State.setRegs_reg (s : State) (v : Regs) (x : Nibble) :
    (s.setRegs v).reg x = v[x.toNat]'(x.isLt) := rfl

end Sys2Proof.Machine
end

