-- ==== Sys2Proof/Laws/Ops.lean ====
section
/-!
SUPPORT. Laws of the shared operations: what a fatal error, a skip, a push, a pop and a fetch can do, and the frames of
the updates.
-/
namespace Sys2Proof.Machine

@[simp] theorem State.raiseBy_eq (s : State) (c : Cause) (i : Instr) :
    s.raiseBy c i = s.raise c (s.pc - 2#12) (some (encode i)) := rfl

/-- Whether an advance by 2 passes the top (10_state.md R37). -/
@[simp] theorem State.atTop_eq (s : State) : s.atTop = decide (0xFFD < s.pc.toNat) := by
  simp only [State.atTop, maxAddr]
  congr 1
  exact propext (by omega)

/-- Below the top, the advance by 2 is exact (30_encoding.md R111). -/
theorem toNat_add_two {a : Addr} (h : a.toNat ≤ 0xFFD) : (a + 2#12).toNat = a.toNat + 2 := by
  rw [BitVec.toNat_add]
  simp
  omega

/-- The address an instruction was fetched from, out of the advanced pc (10_state.md R39). -/
@[simp] theorem add_two_sub_two (a : Addr) : a + 2#12 - 2#12 = a := by
  rw [BitVec.add_sub_cancel]

/-- What a skip can do (40_control_flow.md R120). -/
theorem State.skipIf_cases (s : State) (c : Bool) (i : Instr) :
    (c = false ∧ s.skipIf c i = s) ∨
    (c = true ∧ s.pc.toNat ≤ 0xFFD ∧ s.skipIf c i = s.setPc (s.pc + 2#12)) ∨
    (c = true ∧ 0xFFD < s.pc.toNat ∧ s.skipIf c i = s.raise .pcOverflow (s.pc - 2#12) (some (encode i))) := by
  cases c
  · exact .inl ⟨rfl, rfl⟩
  · by_cases h : 0xFFD < s.pc.toNat
    · exact .inr (.inr ⟨rfl, h, by simp [State.skipIf, State.skipNext, h]⟩)
    · exact .inr (.inl ⟨rfl, by omega, by simp [State.skipIf, State.skipNext, h]⟩)

/-- What a fetch can do (30_encoding.md R111). -/
theorem State.fetch_cases (s : State) :
    (s.pc = 0xFFF#12 ∧ s.fetch = .fatal (s.raise .fetchOutOfRange s.pc none)) ∨
    (s.pc = 0xFFE#12 ∧ s.fetch = .fatal (s.raise .pcOverflow s.pc (some (s.mem.wordAt s.pc)))) ∨
    (s.pc.toNat ≤ 0xFFD ∧ s.fetch = .word (s.mem.wordAt s.pc) (s.setPc (s.pc + 2#12))) := by
  have hp := s.pc.isLt
  unfold State.fetch
  simp only [State.atTop_eq, maxAddr, decide_eq_true_eq]
  by_cases h1 : s.pc.toNat + 1 > 0xFFF
  · exact .inl ⟨BitVec.eq_of_toNat_eq (by simp; omega), by rw [if_pos h1]⟩
  · by_cases h2 : 0xFFD < s.pc.toNat
    · exact .inr (.inl ⟨BitVec.eq_of_toNat_eq (by simp; omega), by rw [if_neg h1, if_pos h2]⟩)
    · exact .inr (.inr ⟨by omega, by rw [if_neg h1, if_neg h2]⟩)

/-- The address of a stack entry, unmasked while the depth is legal (20_memory.md R70). -/
theorem State.toNat_entryAddr (s : State) {k : Nat} (h : k < 32) :
    (s.entryAddr k).toNat = s.params.stackBase.val + 2 * k := by
  have := s.params.stackBase.isLt
  simp only [State.entryAddr, addrOf, BitVec.toNat_ofNat]
  omega

/-- The two bytes of an entry hold the address (20_memory.md R67, R72). -/
@[simp] theorem entryValue_entryBytes (a : Addr) :
    entryValue (a.setWidth 8) ((a.extractLsb' 8 4).setWidth 8) = a := by
  apply BitVec.eq_of_toNat_eq
  have ha := a.isLt
  have hlt : a.toNat % 2 ^ 8 < 2 ^ 8 := Nat.mod_lt _ (by decide)
  simp only [entryValue, addrOf, BitVec.toNat_ofNat, BitVec.toNat_setWidth, BitVec.extractLsb'_toNat,
    Nat.shiftRight_eq_div_pow, Nat.shiftLeft_eq]
  rw [Nat.or_comm, Nat.mul_comm, ← Nat.two_pow_add_eq_or_of_lt hlt]
  omega

/-- A frame that names more allows more of nothing else: nothing changed is within every frame. -/
theorem Frame.refl (w : Touched) (s : State) : Frame w s s := by
  unfold Frame
  simp

end Sys2Proof.Machine
end

