-- ==== Sys2Proof/Laws/Ports.lean ====
section
/-!
SUPPORT. Laws of the ports and agents: ticks, and the launch's Memory.
-/
namespace Sys2Proof.Machine

/-- The value of a counter after one tick (R246). -/
@[simp] theorem toNat_tickByte (c : Byte) : (tickByte c).toNat = c.toNat - 1 := by
  have := c.isLt
  unfold tickByte
  split
  · simp_all
  · rename_i h
    have : c.toNat ≠ 0 := fun e => h (by apply BitVec.eq_of_toNat_eq; simpa using e)
    rw [BitVec.toNat_sub]
    simp
    omega

/-- The timer agent's step: one tick, and the draw of its next strobe (60_exceptions.md R246, R247). -/
@[simp] theorem State.tickStep_eq (s : State) : s.tickStep = s.tick.drawTick := rfl

/-- The launch's Memory is in canonical form (70_reset_and_hazards.md R271). -/
theorem State.wf_load (s : State) (font image : List Byte) (h : s.mem.wf = true) :
    (s.load font image).mem.wf = true :=
  Memory.wf_memWrite _ _ (Memory.wf_memWrite _ _ h)

end Sys2Proof.Machine
end

