-- ==== Sys2Proof/Laws/Exec.lean ====
section
/-!
SUPPORT. Laws of execution: the two ways of CALL, RET and GTK, and what an instruction can do
to status, what a step of a running block can do.
-/
namespace Sys2Proof.Machine
open Host

/-- CALL with room on the stack (40_control_flow.md R123). -/
theorem exec_call_room (nnn : Addr) {s : State} (h : s.sp ≠ 32) :
    exec (.call nnn) s = .next ((s.push s.pc).setPc nnn) := congrArg Outcome.next (if_neg h)

/-- CALL at full depth (R123, 60_exceptions.md R235). -/
theorem exec_call_full (nnn : Addr) {s : State} (h : s.sp = 32) :
    exec (.call nnn) s = .next (s.raiseBy .stackOverflow (.call nnn)) := congrArg Outcome.next (if_pos h)

/-- RET of a nonempty stack (R121). -/
theorem exec_ret_nonempty {s : State} (h : s.sp ≠ 0) : exec .ret s = .next (s.dropTop.setPc s.top) :=
  congrArg Outcome.next (if_neg h)

/-- RET of an empty stack (R121, R236). -/
theorem exec_ret_empty {s : State} (h : s.sp = 0) : exec .ret s = .next (s.raiseBy .stackUnderflow .ret) :=
  congrArg Outcome.next (if_pos h)

/-- GTK with a key pressed (44_timers_keys.md R215). -/
theorem exec_gtk_key (x : Nibble) {s : State} {k : Nibble} (h : s.keyPort = some k) :
    exec (.gtk x) s = .next (s.setReg x (keyByte k)) := by
  simp only [exec, execGtk, h]

/-- GTK with no key pressed (R215). -/
theorem exec_gtk_wait (x : Nibble) {s : State} (h : s.keyPort = none) :
    exec (.gtk x) s = .next (s.setPc (s.pc - 2#12)) := by
  simp only [exec, execGtk, h]

/-- A step of a running block whose tick strobe is due is the timer agent's (00_scope.md R29, 60_exceptions.md R247). -/
theorem step_timer {s : State} (h : s.status = .running) (h0 : s.tickPort = 0) : step s = .next s.tickStep := by
  simp only [step, State.runStep, h, h0]

/-- Every other step of a running block is the interpreter's (R29, R247). -/
theorem step_interpreter {s : State} (h : s.status = .running) (h0 : s.tickPort ≠ 0) : step s = afterCycle s.cycle := by
  obtain ⟨n, hn⟩ := Nat.exists_eq_succ_of_ne_zero h0
  simp only [step, State.runStep, h, hn]

/-- What a step of a running block can do: a tick; or, when the tick strobe is not due, a fatal fetch at 0xFFF or 0xFFE,
or the execution of the decoded word (00_scope.md R29, 30_encoding.md R110 to R113). -/
theorem step_cases {s : State} (h : s.status = .running) :
    (s.tickPort = 0 ∧ step s = .next s.tickStep) ∨
    (s.tickPort ≠ 0 ∧ s.pc = 0xFFF#12 ∧ step s = .next (s.raise .fetchOutOfRange s.pc none).refreshPorts) ∨
    (s.tickPort ≠ 0 ∧ s.pc = 0xFFE#12 ∧
      step s = .next (s.raise .pcOverflow s.pc (some (s.mem.wordAt s.pc))).refreshPorts) ∨
    (s.tickPort ≠ 0 ∧ s.pc.toNat ≤ 0xFFD ∧
      step s = afterCycle (execDecoded (decode (s.mem.wordAt s.pc)) (s.setPc (s.pc + 2#12)))) := by
  by_cases h0 : s.tickPort = 0
  · exact .inl ⟨h0, step_timer h h0⟩
  · rw [step_interpreter h h0]
    unfold State.cycle
    rcases State.fetch_cases s with ⟨hp, hf⟩ | ⟨hp, hf⟩ | ⟨hp, hf⟩
    · exact .inr (.inl ⟨h0, hp, by rw [hf]; rfl⟩)
    · exact .inr (.inr (.inl ⟨h0, hp, by rw [hf]; rfl⟩))
    · exact .inr (.inr (.inr ⟨h0, hp, by rw [hf]⟩))

/-- What an instruction can do to status: nothing, or one of the fatal errors of CALL, RET and the skips, which change
nothing else (60_exceptions.md R232, R240). -/
theorem exec_status {i : Instr} {s t : State} (h : exec i s = .next t) :
    t.status = s.status ∨
    ((∃ a, i = .call a) ∧ s.sp = 32 ∧ t = s.raise .stackOverflow (s.pc - 2#12) (some (encode i))) ∨
    (i = .ret ∧ s.sp = 0 ∧ t = s.raise .stackUnderflow (s.pc - 2#12) (some (encode i))) ∨
    (isSkip i = true ∧ 0xFFD < s.pc.toNat ∧ t = s.raise .pcOverflow (s.pc - 2#12) (some (encode i))) := by
  have hsk : ∀ c, isSkip i = true → t = s.skipIf c i → t.status = s.status ∨
    ((∃ a, i = .call a) ∧ s.sp = 32 ∧ t = s.raise .stackOverflow (s.pc - 2#12) (some (encode i))) ∨
    (i = .ret ∧ s.sp = 0 ∧ t = s.raise .stackUnderflow (s.pc - 2#12) (some (encode i))) ∨
    (isSkip i = true ∧ 0xFFD < s.pc.toNat ∧ t = s.raise .pcOverflow (s.pc - 2#12) (some (encode i))) := by
    intro c hi ht
    rcases s.skipIf_cases c i with ⟨_, e⟩ | ⟨_, _, e⟩ | ⟨_, hh, e⟩ <;> rw [e] at ht
    · left; rw [ht]
    · left; rw [ht]; simp
    · exact .inr (.inr (.inr ⟨hi, hh, ht⟩))
  cases i
  case call a =>
    by_cases hs : s.sp = 32
    · rw [exec_call_full a hs] at h; cases h; exact .inr (.inl ⟨⟨_, rfl⟩, hs, rfl⟩)
    · rw [exec_call_room a hs] at h; cases h; simp [State.push]
  case ret =>
    by_cases hs : s.sp = 0
    · rw [exec_ret_empty hs] at h; cases h; exact .inr (.inr (.inl ⟨rfl, hs, rfl⟩))
    · rw [exec_ret_nonempty hs] at h; cases h; simp [State.dropTop]
  case gtk x =>
    cases hk : s.keyPort
    · rw [exec_gtk_wait x hk] at h; cases h; simp
    · rw [exec_gtk_key x hk] at h; cases h; simp
  all_goals (injection h with h)
  all_goals first | (exact hsk _ rfl h.symm) | (subst h; simp [State.setFlagged])

end Sys2Proof.Machine
end

