-- ==== Sys2Proof/Laws/PerInstr.lean ====
section
/-!
SUPPORT. Per-instruction laws. Family TableRow: the word the encoder writes has the fixed bits of the instruction's row of
spec/opcode_table.json (30_encoding.md R95), and that row is in the table.
-/
-- One theorem at a time: elaborated side by side, their threads reserve more memory than a check allows.
set_option Elab.async false

namespace Sys2Proof.Laws

/-- The encoded word fits the instruction's row, a row of the table. -/
def TableRow.Statement (i : Instr) : Prop := i.row.fits (encode i) = true ∧ i.row ∈ opcodeTable

theorem TableRow.cls : TableRow.Statement .cls := by unfold Statement; decide

theorem TableRow.ret : TableRow.Statement .ret := by unfold Statement; decide

theorem TableRow.jmp (a : Addr) : TableRow.Statement (.jmp a) := by
  refine ⟨?_, by simp [opcodeTable, Instr.row]⟩
  simp only [Instr.row, OpRow.fits, encode, and_F000, group_encodeA]
  decide

theorem TableRow.call (a : Addr) : TableRow.Statement (.call a) := by
  refine ⟨?_, by simp [opcodeTable, Instr.row]⟩
  simp only [Instr.row, OpRow.fits, encode, and_F000, group_encodeA]
  decide

theorem TableRow.seq (x : Nibble) (k : Byte) : TableRow.Statement (.seq x k) := by
  refine ⟨?_, by simp [opcodeTable, Instr.row]⟩
  simp only [Instr.row, OpRow.fits, encode, and_F000, group_encodeXK]
  decide

theorem TableRow.sne (x : Nibble) (k : Byte) : TableRow.Statement (.sne x k) := by
  refine ⟨?_, by simp [opcodeTable, Instr.row]⟩
  simp only [Instr.row, OpRow.fits, encode, and_F000, group_encodeXK]
  decide

theorem TableRow.sre (x y : Nibble) : TableRow.Statement (.sre x y) := by
  refine ⟨?_, by simp [opcodeTable, Instr.row]⟩
  simp only [Instr.row, OpRow.fits, encode, and_F00F, group_encodeXY, n_encodeXY]
  decide

theorem TableRow.seti (x : Nibble) (k : Byte) : TableRow.Statement (.seti x k) := by
  refine ⟨?_, by simp [opcodeTable, Instr.row]⟩
  simp only [Instr.row, OpRow.fits, encode, and_F000, group_encodeXK]
  decide

theorem TableRow.addi (x : Nibble) (k : Byte) : TableRow.Statement (.addi x k) := by
  refine ⟨?_, by simp [opcodeTable, Instr.row]⟩
  simp only [Instr.row, OpRow.fits, encode, and_F000, group_encodeXK]
  decide

theorem TableRow.set (x y : Nibble) : TableRow.Statement (.set x y) := by
  refine ⟨?_, by simp [opcodeTable, Instr.row]⟩
  simp only [Instr.row, OpRow.fits, encode, and_F00F, group_encodeXY, n_encodeXY]
  decide

theorem TableRow.or (x y : Nibble) : TableRow.Statement (.or x y) := by
  refine ⟨?_, by simp [opcodeTable, Instr.row]⟩
  simp only [Instr.row, OpRow.fits, encode, and_F00F, group_encodeXY, n_encodeXY]
  decide

theorem TableRow.and (x y : Nibble) : TableRow.Statement (.and x y) := by
  refine ⟨?_, by simp [opcodeTable, Instr.row]⟩
  simp only [Instr.row, OpRow.fits, encode, and_F00F, group_encodeXY, n_encodeXY]
  decide

theorem TableRow.xor (x y : Nibble) : TableRow.Statement (.xor x y) := by
  refine ⟨?_, by simp [opcodeTable, Instr.row]⟩
  simp only [Instr.row, OpRow.fits, encode, and_F00F, group_encodeXY, n_encodeXY]
  decide

theorem TableRow.add (x y : Nibble) : TableRow.Statement (.add x y) := by
  refine ⟨?_, by simp [opcodeTable, Instr.row]⟩
  simp only [Instr.row, OpRow.fits, encode, and_F00F, group_encodeXY, n_encodeXY]
  decide

theorem TableRow.sub (x y : Nibble) : TableRow.Statement (.sub x y) := by
  refine ⟨?_, by simp [opcodeTable, Instr.row]⟩
  simp only [Instr.row, OpRow.fits, encode, and_F00F, group_encodeXY, n_encodeXY]
  decide

theorem TableRow.shr (x y : Nibble) : TableRow.Statement (.shr x y) := by
  refine ⟨?_, by simp [opcodeTable, Instr.row]⟩
  simp only [Instr.row, OpRow.fits, encode, and_F00F, group_encodeXY, n_encodeXY]
  decide

theorem TableRow.nsub (x y : Nibble) : TableRow.Statement (.nsub x y) := by
  refine ⟨?_, by simp [opcodeTable, Instr.row]⟩
  simp only [Instr.row, OpRow.fits, encode, and_F00F, group_encodeXY, n_encodeXY]
  decide

theorem TableRow.shl (x y : Nibble) : TableRow.Statement (.shl x y) := by
  refine ⟨?_, by simp [opcodeTable, Instr.row]⟩
  simp only [Instr.row, OpRow.fits, encode, and_F00F, group_encodeXY, n_encodeXY]
  decide

theorem TableRow.srne (x y : Nibble) : TableRow.Statement (.srne x y) := by
  refine ⟨?_, by simp [opcodeTable, Instr.row]⟩
  simp only [Instr.row, OpRow.fits, encode, and_F00F, group_encodeXY, n_encodeXY]
  decide

theorem TableRow.setidx (a : Addr) : TableRow.Statement (.setidx a) := by
  refine ⟨?_, by simp [opcodeTable, Instr.row]⟩
  simp only [Instr.row, OpRow.fits, encode, and_F000, group_encodeA]
  decide

theorem TableRow.jmpo (a : Addr) : TableRow.Statement (.jmpo a) := by
  refine ⟨?_, by simp [opcodeTable, Instr.row]⟩
  simp only [Instr.row, OpRow.fits, encode, and_F000, group_encodeA]
  decide

theorem TableRow.rand (x : Nibble) (k : Byte) : TableRow.Statement (.rand x k) := by
  refine ⟨?_, by simp [opcodeTable, Instr.row]⟩
  simp only [Instr.row, OpRow.fits, encode, and_F000, group_encodeXK]
  decide

theorem TableRow.draw (x y n : Nibble) : TableRow.Statement (.draw x y n) := by
  refine ⟨?_, by simp [opcodeTable, Instr.row]⟩
  simp only [Instr.row, OpRow.fits, encode, and_F000, group_encodeXY]
  decide

theorem TableRow.ske (x : Nibble) : TableRow.Statement (.ske x) := by
  refine ⟨?_, by simp [opcodeTable, Instr.row]⟩
  simp only [Instr.row, OpRow.fits, encode, and_F0FF, group_encodeXK, nn_encodeXK]
  decide

theorem TableRow.skn (x : Nibble) : TableRow.Statement (.skn x) := by
  refine ⟨?_, by simp [opcodeTable, Instr.row]⟩
  simp only [Instr.row, OpRow.fits, encode, and_F0FF, group_encodeXK, nn_encodeXK]
  decide

theorem TableRow.gdt (x : Nibble) : TableRow.Statement (.gdt x) := by
  refine ⟨?_, by simp [opcodeTable, Instr.row]⟩
  simp only [Instr.row, OpRow.fits, encode, and_F0FF, group_encodeXK, nn_encodeXK]
  decide

theorem TableRow.gtk (x : Nibble) : TableRow.Statement (.gtk x) := by
  refine ⟨?_, by simp [opcodeTable, Instr.row]⟩
  simp only [Instr.row, OpRow.fits, encode, and_F0FF, group_encodeXK, nn_encodeXK]
  decide

theorem TableRow.sdt (x : Nibble) : TableRow.Statement (.sdt x) := by
  refine ⟨?_, by simp [opcodeTable, Instr.row]⟩
  simp only [Instr.row, OpRow.fits, encode, and_F0FF, group_encodeXK, nn_encodeXK]
  decide

theorem TableRow.sst (x : Nibble) : TableRow.Statement (.sst x) := by
  refine ⟨?_, by simp [opcodeTable, Instr.row]⟩
  simp only [Instr.row, OpRow.fits, encode, and_F0FF, group_encodeXK, nn_encodeXK]
  decide

theorem TableRow.addidx (x : Nibble) : TableRow.Statement (.addidx x) := by
  refine ⟨?_, by simp [opcodeTable, Instr.row]⟩
  simp only [Instr.row, OpRow.fits, encode, and_F0FF, group_encodeXK, nn_encodeXK]
  decide

theorem TableRow.font (x : Nibble) : TableRow.Statement (.font x) := by
  refine ⟨?_, by simp [opcodeTable, Instr.row]⟩
  simp only [Instr.row, OpRow.fits, encode, and_F0FF, group_encodeXK, nn_encodeXK]
  decide

theorem TableRow.bcd (x : Nibble) : TableRow.Statement (.bcd x) := by
  refine ⟨?_, by simp [opcodeTable, Instr.row]⟩
  simp only [Instr.row, OpRow.fits, encode, and_F0FF, group_encodeXK, nn_encodeXK]
  decide

theorem TableRow.stm (x : Nibble) : TableRow.Statement (.stm x) := by
  refine ⟨?_, by simp [opcodeTable, Instr.row]⟩
  simp only [Instr.row, OpRow.fits, encode, and_F0FF, group_encodeXK, nn_encodeXK]
  decide

theorem TableRow.ldm (x : Nibble) : TableRow.Statement (.ldm x) := by
  refine ⟨?_, by simp [opcodeTable, Instr.row]⟩
  simp only [Instr.row, OpRow.fits, encode, and_F0FF, group_encodeXK, nn_encodeXK]
  decide

end Sys2Proof.Laws
end

