-- ==== Sys2Proof/Tests/Slice0.lean ====
section
/-!
SUPPORT. Tests: the well-formedness smoke, every constructor's word written out from 30_encoding.md R95, one-step tests
whose expected values are those of 95_test_vectors.md (ids W, T), and a witness for each statement with hypotheses.
-/
namespace Sys2Proof.Tests
open Sys2Proof Sys2Proof.Machine Host

set_option Elab.async false

/-! ### Helpers -/

/-- The base state of 95_test_vectors.md section 0, with SB = 0xEA0, no key, the random byte 0xB7 and the
interpreter's turn. -/
def base : State :=
  { State.reset with
    params := { stackBase := ⟨0xEA0, by decide⟩, shlFlag := .bit, ldmShort := .unchanged }
    keyPort := none
    randPort := 0xB7#8
    tickPort := 1
    draws := 1 }

/-- The base state in the execute phase of the instruction at 0x200. -/
def ex : State := base.setPc 0x202#12

/-- Words at rising addresses from `a` on. -/
def words (a : Addr) (ws : List Word) (s : State) : State := s.setMem (s.mem.memWrite a (ws.flatMap bytesOfWord))

/-- Bytes at rising addresses from `a` on. -/
def bytes (a : Addr) (bs : List Byte) (s : State) : State := s.setMem (s.mem.memWrite a bs)

/-- The next state of an instruction. -/
def after (i : Instr) (s : State) : State :=
  match exec i s with
  | .next t => t
  | _       => s

/-- The next state of a step. -/
def stepped (s : State) : State :=
  match step s with
  | .next t => t
  | _       => s

/-- A pixel turned on. -/
def lit (x y : Nat) (s : State) : State := s.setDisplay (s.fb.setPixel x y true) s.events

/-- The pixels that are on, row by row. -/
def onPixels (s : State) (rows cols : List Nat) : List (Nat × Nat) :=
  rows.flatMap fun y => (cols.map fun x => (x, y)).filter fun p => s.fb.pixel p.1 p.2

/-- V[j] = 0x10 + j. -/
def ramp (s : State) : State := s.setRegs (Vector.ofFn fun j => BitVec.ofNat 8 (0x10 + j.val))

/-! ### Well-formedness smoke -/

theorem test_wf_words_refused :
    ([0x0000, 0x0123, 0x01E0, 0x00E1, 0x00EF, 0x00FF, 0x5121, 0x9AB1, 0x8008, 0x8009, 0x800A, 0x800B, 0x800C, 0x800D,
      0x800F, 0xE000, 0xE19F, 0xE1A0, 0xEF9D, 0xF000, 0xF130, 0xF1FF, 0xFFFF, 0xF166].all
        fun w : Word => !Word.wellFormed w && decide (decode w = .invalid w)) = true := by decide

theorem test_wf_words_accepted :
    ([0x00E0, 0x00EE, 0x1FFF, 0x5120, 0x800E, 0x9AB0, 0xD120, 0xEF9E, 0xE1A1, 0xFF65].all
        fun w : Word => Word.wellFormed w) = true := by decide

theorem test_wf_stack_base : stackBaseWellFormed 0xFC1 = false ∧ stackBaseWellFormed 0xFC0 = true := by decide

theorem test_wf_memory_refused :
    Memory.wf [(5, 1#8), (3, 1#8)] = false ∧ Memory.wf [(3, 1#8), (3, 2#8)] = false ∧
    Memory.wf [(4096, 1#8)] = false ∧ Memory.wf [(3, 0#8)] = false ∧ Memory.wf [(3, 1#8), (4095, 1#8)] = true := by decide

/-- No word fits two rows of the table. -/
theorem test_table_rows_disjoint : opcodeTable.Pairwise fun r q => r.disjoint q = true := by decide

/-! ### Encodings, written out from R95 (hexadecimal digits are the fields G X Y N) -/

theorem test_decode_control :
    decode 0x00E0#16 = .instr .cls ∧ decode 0x00EE#16 = .instr .ret ∧ decode 0x1ABC#16 = .instr (.jmp 0xABC#12) ∧
    decode 0x2ABC#16 = .instr (.call 0xABC#12) ∧ decode 0x3A7F#16 = .instr (.seq 0xA#4 0x7F#8) ∧
    decode 0x4A7F#16 = .instr (.sne 0xA#4 0x7F#8) ∧ decode 0x51A0#16 = .instr (.sre 0x1#4 0xA#4) ∧
    decode 0x91A0#16 = .instr (.srne 0x1#4 0xA#4) ∧ decode 0xBF00#16 = .instr (.jmpo 0xF00#12) := by decide

theorem test_decode_alu_immediate :
    decode 0x6A42#16 = .instr (.seti 0xA#4 0x42#8) ∧ decode 0x7A42#16 = .instr (.addi 0xA#4 0x42#8) ∧
    decode 0xC3F0#16 = .instr (.rand 0x3#4 0xF0#8) := by decide

theorem test_decode_alu_register :
    decode 0x8AB0#16 = .instr (.set 0xA#4 0xB#4) ∧ decode 0x8AB1#16 = .instr (.or 0xA#4 0xB#4) ∧
    decode 0x8AB2#16 = .instr (.and 0xA#4 0xB#4) ∧ decode 0x8AB3#16 = .instr (.xor 0xA#4 0xB#4) ∧
    decode 0x8AB4#16 = .instr (.add 0xA#4 0xB#4) ∧ decode 0x8AB5#16 = .instr (.sub 0xA#4 0xB#4) ∧
    decode 0x8AB6#16 = .instr (.shr 0xA#4 0xB#4) ∧ decode 0x8AB7#16 = .instr (.nsub 0xA#4 0xB#4) ∧
    decode 0x8ABE#16 = .instr (.shl 0xA#4 0xB#4) := by decide

theorem test_decode_index_memory :
    decode 0xA123#16 = .instr (.setidx 0x123#12) ∧ decode 0xF41E#16 = .instr (.addidx 0x4#4) ∧
    decode 0xFC29#16 = .instr (.font 0xC#4) ∧ decode 0xF733#16 = .instr (.bcd 0x7#4) ∧
    decode 0xF155#16 = .instr (.stm 0x1#4) ∧ decode 0xF265#16 = .instr (.ldm 0x2#4) := by decide

theorem test_decode_display_timer_key :
    decode 0xD12F#16 = .instr (.draw 0x1#4 0x2#4 0xF#4) ∧ decode 0xE19E#16 = .instr (.ske 0x1#4) ∧
    decode 0xE1A1#16 = .instr (.skn 0x1#4) ∧ decode 0xF107#16 = .instr (.gdt 0x1#4) ∧
    decode 0xF30A#16 = .instr (.gtk 0x3#4) ∧ decode 0xF015#16 = .instr (.sdt 0x0#4) ∧
    decode 0xF018#16 = .instr (.sst 0x0#4) := by decide

theorem test_encode_bits :
    encode (.jmp 0xABC#12) = 0x1ABC#16 ∧ encode (.add 0xA#4 0xB#4) = 0x8AB4#16 ∧ encode (.seq 0xA#4 0x7F#8) = 0x3A7F#16 ∧
    encode (.draw 0x1#4 0x2#4 0xF#4) = 0xD12F#16 ∧ encode (.ldm 0x2#4) = 0xF265#16 := by decide

theorem test_decodeTableWord : decodeTableWord 16 0x8AB7 = some (.nsub 0xA#4 0xB#4) ∧ decodeTableWord 16 0 = none := by
  decide

/-! ### Control transfer -/

theorem test_jmp : (after (.jmp 0x301#12) ex).pc = 0x301#12 := by decide -- T20

theorem test_call : -- T22
    ((after (.call 0x456#12) ex).mem, (after (.call 0x456#12) ex).sp, (after (.call 0x456#12) ex).pc) =
      ([(0xEA0, 0x02#8), (0xEA1, 0x02#8)], 1, 0x456#12) := by decide

theorem test_call_overflow : -- T25
    (after (.call 0x300#12) (ex.setSp 32)).status = .halted .stackOverflow 0x200#12 (some 0x2300#16) := by decide

theorem test_ret_masks : -- T28
    (after .ret (bytes 0xEA0#12 [0x01#8, 0x13#8] (ex.setSp 1))).pc = 0x301#12 := by decide

theorem test_ret_underflow : -- T27
    (after .ret ex).status = .halted .stackUnderflow 0x200#12 (some 0x00EE#16) ∧ (after .ret ex).pc = 0x202#12 := by decide

theorem test_seq : -- T31, T32
    (after (.seq 3#4 0x07#8) (ex.setReg 3#4 0x07#8)).pc = 0x204#12 ∧
    (after (.seq 3#4 0x07#8) (ex.setReg 3#4 0x08#8)).pc = 0x202#12 := by decide

theorem test_seq_past_top : -- T43
    (after (.seq 0#4 0x00#8) (ex.setPc 0xFFE#12)).status = .halted .pcOverflow 0xFFC#12 (some 0x3000#16) ∧
    (after (.seq 0#4 0x00#8) (ex.setPc 0xFFE#12)).pc = 0xFFE#12 := by decide

theorem test_sne : (after (.sne 0#4 0x01#8) ex).pc = 0x204#12 ∧ (after (.sne 0#4 0x00#8) ex).pc = 0x202#12 := by
  decide -- T34, T35

theorem test_sne_past_top : -- T45
    (after (.sne 0#4 0x01#8) (ex.setPc 0xFFF#12)).status = .halted .pcOverflow 0xFFD#12 (some 0x4001#16) := by decide

theorem test_sre : -- T36, T37
    (after (.sre 1#4 2#4) ((ex.setReg 1#4 0x10#8).setReg 2#4 0x10#8)).pc = 0x204#12 ∧
    (after (.sre 1#4 2#4) ((ex.setReg 1#4 0x10#8).setReg 2#4 0x11#8)).pc = 0x202#12 := by decide

theorem test_srne : -- T39, T40
    (after (.srne 1#4 2#4) ((ex.setReg 1#4 0x10#8).setReg 2#4 0x11#8)).pc = 0x204#12 ∧
    (after (.srne 4#4 4#4) (ex.setReg 4#4 0x99#8)).pc = 0x202#12 := by decide

theorem test_jmpo : -- T46, T48
    (after (.jmpo 0x300#12) (ex.setReg 0#4 0x04#8)).pc = 0x304#12 ∧
    (after (.jmpo 0xF01#12) (ex.setReg 0#4 0xFF#8)).pc = 0x000#12 := by decide

/-! ### Register and arithmetic -/

theorem test_seti : (after (.seti 0xA#4 0x42#8) ex).reg 0xA#4 = 0x42#8 := by decide -- T4

theorem test_addi : -- T52
    (after (.addi 1#4 0xFF#8) ((ex.setReg 1#4 0x03#8).setReg 0xF#4 0x55#8)).reg 1#4 = 0x02#8 ∧
    (after (.addi 1#4 0xFF#8) ((ex.setReg 1#4 0x03#8).setReg 0xF#4 0x55#8)).reg 0xF#4 = 0x55#8 := by decide

theorem test_set : (after (.set 1#4 2#4) (ex.setReg 2#4 0x7A#8)).reg 1#4 = 0x7A#8 := by decide -- T55

theorem test_logic : -- T60, T57, T58
    (after (.or 0xF#4 1#4) ((ex.setReg 0xF#4 0x0F#8).setReg 1#4 0xF0#8)).reg 0xF#4 = 0xFF#8 ∧
    (after (.and 0#4 1#4) ((ex.setReg 0#4 0xF0#8).setReg 1#4 0x3C#8)).reg 0#4 = 0x30#8 ∧
    (after (.xor 0#4 1#4) ((ex.setReg 0#4 0xFF#8).setReg 1#4 0x0F#8)).reg 0#4 = 0xF0#8 := by decide

theorem test_add : -- T61
    (after (.add 0#4 1#4) ((ex.setReg 0#4 0xFF#8).setReg 1#4 0x01#8)).reg 0#4 = 0x00#8 ∧
    (after (.add 0#4 1#4) ((ex.setReg 0#4 0xFF#8).setReg 1#4 0x01#8)).reg 0xF#4 = 0x01#8 := by decide

theorem test_add_into_flag : -- T64
    (after (.add 0xF#4 1#4) ((ex.setReg 0xF#4 0xF0#8).setReg 1#4 0x20#8)).reg 0xF#4 = 0x10#8 := by decide

theorem test_sub : -- T67
    (after (.sub 0#4 1#4) ((ex.setReg 0#4 0x00#8).setReg 1#4 0x01#8)).reg 0#4 = 0xFF#8 ∧
    (after (.sub 0#4 1#4) ((ex.setReg 0#4 0x00#8).setReg 1#4 0x01#8)).reg 0xF#4 = 0x00#8 := by decide

theorem test_sub_equal : -- T69
    (after (.sub 2#4 2#4) (ex.setReg 2#4 0x37#8)).reg 2#4 = 0x00#8 ∧
    (after (.sub 2#4 2#4) (ex.setReg 2#4 0x37#8)).reg 0xF#4 = 0x01#8 := by decide

theorem test_nsub : -- T72, T73
    (after (.nsub 0#4 1#4) ((ex.setReg 0#4 0x03#8).setReg 1#4 0x05#8)).reg 0#4 = 0x02#8 ∧
    (after (.nsub 0#4 1#4) ((ex.setReg 0#4 0x03#8).setReg 1#4 0x05#8)).reg 0xF#4 = 0x01#8 ∧
    (after (.nsub 0#4 1#4) ((ex.setReg 0#4 0x05#8).setReg 1#4 0x03#8)).reg 0xF#4 = 0x00#8 := by decide

theorem test_shr : -- T76
    (after (.shr 0#4 1#4) ((ex.setReg 0#4 0xAA#8).setReg 1#4 0x05#8)).reg 0#4 = 0x02#8 ∧
    (after (.shr 0#4 1#4) ((ex.setReg 0#4 0xAA#8).setReg 1#4 0x05#8)).reg 0xF#4 = 0x01#8 := by decide

theorem test_shr_from_flag : -- T79
    (after (.shr 0#4 0xF#4) (ex.setReg 0xF#4 0x03#8)).reg 0#4 = 0x01#8 ∧
    (after (.shr 0#4 0xF#4) (ex.setReg 0xF#4 0x03#8)).reg 0xF#4 = 0x01#8 := by decide

theorem test_shl : -- T80
    (after (.shl 0#4 1#4) (ex.setReg 1#4 0x81#8)).reg 0#4 = 0x02#8 ∧
    (after (.shl 0#4 1#4) (ex.setReg 1#4 0x81#8)).reg 0xF#4 = 0x01#8 := by decide

theorem test_shl_masked : -- T80 under SHL_FLAG = masked
    (after (.shl 0#4 1#4) ({ ex with params := { ex.params with shlFlag := .masked } }.setReg 1#4 0x81#8)).reg 0xF#4 =
      0x80#8 := by decide

theorem test_rand : (after (.rand 2#4 0x0F#8) ex).reg 2#4 = 0x07#8 := by decide -- T85

/-! ### Index register and memory -/

theorem test_setidx : (after (.setidx 0xFFF#12) ex).i = 0xFFF#12 := by decide -- T90

theorem test_addidx : -- T92, T93
    (after (.addidx 0#4) ((ex.setI 0xFFF#12).setReg 0#4 0x01#8)).i = 0x000#12 ∧
    (after (.addidx 0#4) ((ex.setI 0xF80#12).setReg 0#4 0xFF#8)).i = 0x07F#12 := by decide

theorem test_font : -- T95, T96
    (after (.font 0#4) (ex.setReg 0#4 0x0F#8)).i = 0x09B#12 ∧ (after (.font 0#4) (ex.setReg 0#4 0x1A#8)).i = 0x082#12 := by
  decide

theorem test_bcd : -- T102
    (after (.bcd 0#4) ((ex.setReg 0#4 255#8).setI 0x300#12)).mem = [(0x300, 2#8), (0x301, 5#8), (0x302, 5#8)] := by decide

theorem test_bcd_clamped : -- T103
    (after (.bcd 0#4) (bytes 0#12 [0xAB#8] ((ex.setReg 0#4 123#8).setI 0xFFE#12))).mem =
      [(0x000, 0xAB#8), (0xFFE, 1#8), (0xFFF, 2#8)] := by decide

theorem test_stm : -- T105
    (after (.stm 1#4) ((((ex.setReg 0#4 0x11#8).setReg 1#4 0x22#8).setReg 2#4 0x33#8).setI 0x400#12)).mem =
      [(0x400, 0x11#8), (0x401, 0x22#8)] := by decide

theorem test_stm_clamped : -- T107
    (after (.stm 0xF#4) ((ramp ex).setI 0xFF8#12)).mem =
      [(0xFF8, 0x10#8), (0xFF9, 0x11#8), (0xFFA, 0x12#8), (0xFFB, 0x13#8), (0xFFC, 0x14#8), (0xFFD, 0x15#8),
        (0xFFE, 0x16#8), (0xFFF, 0x17#8)] := by decide

theorem test_ldm : -- T109
    ([0, 1, 2, 3].map (after (.ldm 2#4) (bytes 0x300#12 [2#8, 5#8, 4#8] (ex.setI 0x300#12))).reg) =
      [2#8, 5#8, 4#8, 0#8] := by decide

theorem test_ldm_short : -- T110
    ([0, 1, 2, 3].map (after (.ldm 3#4) (bytes 0xFFF#12 [0x9C#8]
      ((((ex.setReg 1#4 0xAA#8).setReg 2#4 0xAA#8).setReg 3#4 0xAA#8).setI 0xFFF#12))).reg) =
      [0x9C#8, 0xAA#8, 0xAA#8, 0xAA#8] := by decide

/-! ### Display -/

theorem test_cls : -- T120
    (after .cls (lit 5 5 ex)).fb.pixel 5 5 = false ∧ (after .cls (lit 5 5 ex)).events = [.clear] := by decide

theorem test_draw_clips : -- T125: anchor (3, 31), the second row clipped
    onPixels (after (.draw 0#4 1#4 2#4)
      (bytes 0x300#12 [0xFF#8, 0xFF#8] (((ex.setReg 0#4 67#8).setReg 1#4 0xFF#8).setI 0x300#12)))
      [0, 30, 31] (List.range 12) =
      [(3, 31), (4, 31), (5, 31), (6, 31), (7, 31), (8, 31), (9, 31), (10, 31)] := by decide

theorem test_draw_collides : -- T128
    ((after (.draw 1#4 2#4 1#4) (bytes 0x300#12 [0x18#8] ((lit 3 0 ex).setI 0x300#12))).reg 0xF#4,
      (after (.draw 1#4 2#4 1#4) (bytes 0x300#12 [0x18#8] ((lit 3 0 ex).setI 0x300#12))).events) =
      (1#8, [.unset 3 0, .set 4 0]) := by decide

/-! ### Timers and keys -/

theorem test_gdt : (after (.gdt 1#4) (ex.setDt 0x3C#8)).reg 1#4 = 0x3C#8 := by decide -- T140

theorem test_sdt : (after (.sdt 0#4) (ex.setReg 0#4 0x3C#8)).dt = 0x3C#8 := by decide -- T140

theorem test_sst : -- T145
    (after (.sst 0#4) (ex.setReg 0#4 0x20#8)).st = 0x20#8 ∧
    (after (.sst 0#4) (ex.setReg 0#4 0x20#8)).soundActive = true := by decide

theorem test_ticks : -- W9
    ([0, 1, 2, 3, 4, 5, 6].map fun n => (Nat.repeat State.tick n (ex.setDt 5#8)).dt) =
      [5#8, 4#8, 3#8, 2#8, 1#8, 0#8, 0#8] := by decide

theorem test_ske : -- T148, T149, T150
    (after (.ske 1#4) ({ ex with keyPort := some 0xA#4 }.setReg 1#4 0x1A#8)).pc = 0x204#12 ∧
    (after (.ske 1#4) ({ ex with keyPort := some 0xB#4 }.setReg 1#4 0x0A#8)).pc = 0x202#12 ∧
    (after (.ske 1#4) (ex.setReg 1#4 0x0A#8)).pc = 0x202#12 := by decide

theorem test_skn : -- T151, T152, T153
    (after (.skn 1#4) (ex.setReg 1#4 0x05#8)).pc = 0x204#12 ∧
    (after (.skn 1#4) ({ ex with keyPort := some 5#4 }.setReg 1#4 0x05#8)).pc = 0x202#12 ∧
    (after (.skn 1#4) ({ ex with keyPort := some 6#4 }.setReg 1#4 0x05#8)).pc = 0x204#12 := by decide

theorem test_gtk : -- T154, T155
    (after (.gtk 3#4) (ex.setPc 0x206#12)).pc = 0x204#12 ∧
    (after (.gtk 3#4) { ex with keyPort := some 7#4 }).reg 3#4 = 0x07#8 := by decide

/-! ### Whole steps -/

theorem test_step_big_endian : (stepped (bytes 0x200#12 [0x12#8, 0x34#8] base)).pc = 0x234#12 := by decide -- T1

theorem test_step_fetch_faults : -- T2, T3
    (stepped (base.setPc 0xFFF#12)).status = .halted .fetchOutOfRange 0xFFF#12 none ∧
    (stepped (words 0xFFE#12 [0x6001#16] (base.setPc 0xFFE#12))).status =
      .halted .pcOverflow 0xFFE#12 (some 0x6001#16) := by decide

theorem test_step_top_odd : -- T4
    (stepped (words 0xFFD#12 [0x6A42#16] (base.setPc 0xFFD#12))).reg 0xA#4 = 0x42#8 ∧
    (stepped (words 0xFFD#12 [0x6A42#16] (base.setPc 0xFFD#12))).pc = 0xFFF#12 := by decide

theorem test_step_invalid : -- T8
    (stepped (words 0x200#12 [0x01E0#16] base)).status = .halted .invalidInstruction 0x200#12 (some 0x01E0#16) ∧
    (stepped (words 0x200#12 [0x01E0#16] base)).pc = 0x202#12 := by decide

theorem test_step_priority : -- T161
    (stepped (words 0xFFE#12 [0x2300#16] ((base.setPc 0xFFE#12).setSp 32))).status =
      .halted .pcOverflow 0xFFE#12 (some 0x2300#16) := by decide

theorem test_step_timer : -- T144: a tick is a step of its own; pc stays
    (stepped { base.setSt 2#8 with tickPort := 0 }).st = 1#8 ∧ (stepped { base.setSt 2#8 with tickPort := 0 }).dt = 0#8 ∧
    (stepped { base.setSt 2#8 with tickPort := 0 }).pc = 0x200#12 := by decide

theorem test_step_nears_strobe : -- R247: an interpreter step brings the next tick one step nearer
    (stepped (words 0x200#12 [0x6A42#16] base)).tickPort = 0 := by decide

/-- R191 on a pixel that the first DRAW turns off: VF = 1, then VF = 0 though the first DRAW changed a pixel. The last
clause of R198 says otherwise (log 14). -/
theorem test_draw_off_then_on :
    (after (.draw 1#4 2#4 1#4) (bytes 0x300#12 [0x80#8] ((lit 0 0 ex).setI 0x300#12))).reg 0xF#4 = 1#8 ∧
    (after (.draw 1#4 2#4 1#4) (after (.draw 1#4 2#4 1#4)
      (bytes 0x300#12 [0x80#8] ((lit 0 0 ex).setI 0x300#12)))).reg 0xF#4 = 0#8 := by decide

theorem test_withFetchWord : -- the word of SETI(VA, 0x42) placed at reset runs as the next instruction
    (stepped (State.reset.withFetchWord 16 0x6A42)).reg 0xA#4 = 0x42#8 := by decide

theorem test_reset_input : -- T163
    ((base.raise .stackOverflow 0x200#12 none).applyReset [] []).status = .running := by decide

theorem test_launch : -- T170, and the font at 0x050
    (State.start [0xF0#8, 0x90#8] [0x12#8] ⟨0xEA0, by decide⟩).mem = [(0x050, 0xF0#8), (0x051, 0x90#8), (0x200, 0x12#8)] := by
  decide

/-! ### Witnesses: for each statement with hypotheses, a state and operands that meet them, at the boundaries -/

/-- JMP at 0x200. -/
def atJmp : State := words 0x200#12 [0x1234#16] base

/-- SETI at 0xFFD, the last address an instruction can be executed from. -/
def atTopSeti : State := words 0xFFD#12 [0x6A42#16] (base.setPc 0xFFD#12)

/-- The six ways out of running, each at a boundary: fetch at 0xFFF, fetch at 0xFFE, an Invalid word at 0xFFD, CALL at
full depth, RET at depth 0, a taken skip at 0xFFC and at 0xFFD. -/
def fatalStates : List State :=
  [base.setPc 0xFFF#12, base.setPc 0xFFE#12, words 0xFFD#12 [0x0123#16] (base.setPc 0xFFD#12),
    (words 0x200#12 [0x2300#16] base).setSp 32, words 0x200#12 [0x00EE#16] base,
    words 0xFFC#12 [0x3000#16] (base.setPc 0xFFC#12), words 0xFFD#12 [0x3000#16] (base.setPc 0xFFD#12)]

/-- A running state with a canonical memory and a legal depth meets the invariant. -/
theorem inv_of_running {s : State} (hm : s.mem.wf = true) (hs : s.sp ≤ 32) (hr : s.status = .running) : s.Inv :=
  ⟨hm, hs, fun c p w h => by rw [hr] at h; cases h⟩

theorem test_witness_LaunchState : -- the last byte of each load and the byte past it
    (State.start [0x11#8] [1#8, 2#8] ⟨0xFC0, by decide⟩).mem.read 0x050 = 0x11#8 ∧
    (State.start [0x11#8] [1#8, 2#8] ⟨0xFC0, by decide⟩).mem.read 0x051 = 0x00#8 ∧
    (State.start [0x11#8] [1#8, 2#8] ⟨0xFC0, by decide⟩).mem.read 0x1FF = 0x00#8 ∧
    (State.start [0x11#8] [1#8, 2#8] ⟨0xFC0, by decide⟩).mem.read 0x201 = 2#8 ∧
    (State.start [0x11#8] [1#8, 2#8] ⟨0xFC0, by decide⟩).mem.read 0x202 = 0x00#8 ∧
    (State.start [0x11#8] [1#8, 2#8] ⟨0xFC0, by decide⟩).mem.read 4096 = 0x00#8 := by decide

theorem test_witness_StepKeepsInvariant : atJmp.Inv ∧ ∃ t, step atJmp = .next t :=
  ⟨inv_of_running (by decide) (by decide) rfl, _, rfl⟩

theorem test_witness_StepKeepsInvariant_fatal : -- a state of each cause meets the premises and halts
    ∀ s ∈ fatalStates, s.Inv ∧ ∃ t, step s = .next t ∧ t.status ≠ .running := by
  have h : ∀ s ∈ fatalStates, s.mem.wf = true ∧ s.sp ≤ 32 ∧ s.status = .running ∧ (stepped s).status ≠ .running := by
    decide
  intro s hs
  obtain ⟨h1, h2, h3, h4⟩ := h s hs
  refine ⟨inv_of_running h1 h2 h3, stepped s, ?_, h4⟩
  simp only [fatalStates, List.mem_cons, List.not_mem_nil, or_false] at hs
  rcases hs with rfl | rfl | rfl | rfl | rfl | rfl | rfl <;> rfl

theorem test_witness_StepRunsDecoded :
    (atJmp.status = .running ∧ atJmp.tickPort ≠ 0 ∧ atJmp.pc.toNat ≤ 0xFFD ∧ decode (atJmp.mem.wordAt atJmp.pc) = .instr (.jmp 0x234#12)) ∧
    (atTopSeti.status = .running ∧ atTopSeti.tickPort ≠ 0 ∧ atTopSeti.pc.toNat = 0xFFD ∧
      decode (atTopSeti.mem.wordAt atTopSeti.pc) = .instr (.seti 0xA#4 0x42#8)) := by decide

theorem test_witness_FetchBigEndian : (base.setPc 0xFFD#12).pc = 0xFFD#12 ∧ (0xFFD#12 : Addr).toNat ≤ 0xFFD := by decide

theorem test_witness_FetchRule :
    (base.setPc 0xFFF#12).pc.toNat = 0xFFF ∧ (base.setPc 0xFFE#12).pc.toNat = 0xFFE ∧
    (base.setPc 0xFFD#12).pc.toNat < 0xFFE := by decide

theorem test_witness_FatalFetchHalts :
    base.tickPort ≠ 0 ∧ (base.setPc 0xFFF#12).status = .running ∧ (base.setPc 0xFFF#12).pc = 0xFFF#12 ∧
    (base.setPc 0xFFF#12).tickPort ≠ 0 ∧ (base.setPc 0xFFE#12).tickPort ≠ 0 ∧ (base.setPc 0xFFE#12).status = .running ∧ (base.setPc 0xFFE#12).pc = 0xFFE#12 := by decide

theorem test_witness_InvalidWordHalts :
    (words 0xFFD#12 [0x0123#16] (base.setPc 0xFFD#12)).status = .running ∧
    (words 0xFFD#12 [0x0123#16] (base.setPc 0xFFD#12)).tickPort ≠ 0 ∧
    (words 0xFFD#12 [0x0123#16] (base.setPc 0xFFD#12)).pc.toNat ≤ 0xFFD ∧
    decode ((words 0xFFD#12 [0x0123#16] (base.setPc 0xFFD#12)).mem.wordAt 0xFFD#12) = .invalid 0x0123#16 := by decide

theorem test_witness_HaltedHasNoStep :
    (base.raise .stackOverflow 0x200#12 (some 0x2300#16)).status = .halted .stackOverflow 0x200#12 (some 0x2300#16) := rfl

theorem test_witness_RunningAlwaysSteps : State.reset.status = .running := rfl

theorem test_witness_FatalIsPrecise : -- the fetch phase and the execute phase
    (base.setPc 0xFFF#12).status = .running ∧ (∃ t, step (base.setPc 0xFFF#12) = .next t ∧ t.status ≠ .running) ∧
    (words 0x200#12 [0x00EE#16] base).status = .running ∧
      ∃ t, step (words 0x200#12 [0x00EE#16] base) = .next t ∧ t.status ≠ .running := by
  refine ⟨rfl, ⟨stepped (base.setPc 0xFFF#12), rfl, by decide⟩, rfl, stepped (words 0x200#12 [0x00EE#16] base), rfl, by decide⟩

theorem test_witness_FatalCausesTable : -- the cause of each of the ways out of running
    (fatalStates.map fun s => ((stepped s).status, s.sp ≤ 32)) =
      [(.halted .fetchOutOfRange 0xFFF#12 none, True), (.halted .pcOverflow 0xFFE#12 (some 0x0000#16), True),
        (.halted .invalidInstruction 0xFFD#12 (some 0x0123#16), True),
        (.halted .stackOverflow 0x200#12 (some 0x2300#16), True),
        (.halted .stackUnderflow 0x200#12 (some 0x00EE#16), True),
        (.halted .pcOverflow 0xFFC#12 (some 0x3000#16), True), (.halted .pcOverflow 0xFFD#12 (some 0x3000#16), True)] := by
  simp [fatalStates]
  decide

theorem test_witness_EncodeDecode :
    decode 0x8AB7#16 = .instr (.nsub 0xA#4 0xB#4) ∧ decode 0x8AB8#16 = .invalid 0x8AB8#16 := by decide

theorem test_witness_DecodesIffInTable :
    decode 0xFF65#16 = .instr (.ldm 0xF#4) ∧ (Instr.ldm 0#4).row ∈ opcodeTable ∧
    (Instr.ldm 0#4).row.fits 0xFF65#16 = true := by decide

theorem test_witness_ReadClamped : -- one byte at the top of Memory
    0 < min 2 (4096 - (0xFFF#12 : Addr).toNat) ∧ ¬ 1 < min 2 (4096 - (0xFFF#12 : Addr).toNat) := by decide

theorem test_witness_WriteClamped : -- the last byte that fits and the first that does not
    Memory.wf [(0xFFF, 0xAA#8)] = true ∧ (Memory.memWrite [(0xFFF, 0xAA#8)] 0xFFF#12 [1#8, 2#8]).read 0xFFF = 1#8 ∧
    (Memory.memWrite [(0xFFF, 0xAA#8)] 0xFFF#12 [1#8, 2#8]).read 0 = 0#8 := by decide

theorem test_witness_CanonicalMemoryUnique :
    Memory.wf [(0xFFF, 0xAA#8)] = true ∧ ∀ a, Memory.read [(0xFFF, 0xAA#8)] a = Memory.read [(0xFFF, 0xAA#8)] a :=
  ⟨by decide, fun _ => rfl⟩

theorem test_witness_PlacedWordIsFetched :
    (base.setPc 0xFFE#12).mem.wf = true ∧ (base.setPc 0xFFE#12).pc.toNat ≤ 0xFFE ∧ 65535 < 65536 ∧
    ((base.setPc 0xFFE#12).withFetchWord 16 65535).mem.wordAt 0xFFE#12 = 0xFFFF#16 := by decide

theorem test_witness_AddCarry_SubNsubNoBorrow_Shifts : -- the flag of a destination that is not VF
    (0xE#4 : Nibble) ≠ 0xF#4 ∧ (0x0#4 : Nibble) ≠ 0xF#4 := by decide

theorem test_witness_CallPushesOrOverflows_CallThenRet :
    atJmp.mem.wf = true ∧ (atJmp.setSp 31).mem.wf = true ∧ atJmp.sp < 32 ∧ (atJmp.setSp 31).sp < 32 ∧
    (base.setSp 32).sp = 32 := by decide

theorem test_witness_RetPopsOrUnderflows :
    (base.setSp 1).sp ≠ 0 ∧ (base.setSp 1).sp ≤ 32 ∧ (base.setSp 32).sp ≠ 0 ∧ (base.setSp 32).sp ≤ 32 ∧
    base.sp = 0 := by decide

theorem test_witness_CompareSkips : -- each condition at the last pc that may skip, and each failing at the top
    ((ex.setPc 0xFFD#12).reg 0#4 = 0#8 ∧ (ex.setPc 0xFFD#12).reg 0#4 ≠ 1#8 ∧
      (ex.setPc 0xFFD#12).reg 1#4 = (ex.setPc 0xFFD#12).reg 2#4 ∧
      ((ex.setPc 0xFFD#12).setReg 1#4 1#8).reg 1#4 ≠ ((ex.setPc 0xFFD#12).setReg 1#4 1#8).reg 2#4 ∧
      (ex.setPc 0xFFD#12).pc.toNat ≤ 0xFFD) ∧
    (¬ (ex.setPc 0xFFF#12).reg 0#4 = 1#8 ∧ ¬ (ex.setPc 0xFFF#12).reg 0#4 ≠ 0#8 ∧
      ¬ ((ex.setPc 0xFFF#12).setReg 1#4 1#8).reg 1#4 = ((ex.setPc 0xFFF#12).setReg 1#4 1#8).reg 2#4 ∧
      ¬ (ex.setPc 0xFFF#12).reg 1#4 ≠ (ex.setPc 0xFFF#12).reg 2#4) := by decide

theorem test_witness_KeySkips : -- key 0xA against V[1] = 0x1A: SKE takes, SKN does not; no key: the other way round
    (∃ k, ({ ex with keyPort := some 0xA#4 }.setReg 1#4 0x1A#8).keyPort = some k ∧
      k.toNat = (({ ex with keyPort := some 0xA#4 }.setReg 1#4 0x1A#8).reg 1#4).toNat % 16) ∧
    ex.keyPort = none ∧ ex.pc.toNat ≤ 0xFFD := ⟨⟨0xA#4, rfl, by decide⟩, rfl, by decide⟩

theorem test_witness_CompareSkips_KeySkips_past_top : -- every condition at pc = 0xFFE, just past the last pc that may skip
    (ex.setPc 0xFFE#12).reg 0#4 = 0#8 ∧ (ex.setPc 0xFFE#12).reg 0#4 ≠ 1#8 ∧
    (ex.setPc 0xFFE#12).reg 1#4 = (ex.setPc 0xFFE#12).reg 2#4 ∧
    ((ex.setPc 0xFFE#12).setReg 1#4 1#8).reg 1#4 ≠ ((ex.setPc 0xFFE#12).setReg 1#4 1#8).reg 2#4 ∧
    (ex.setPc 0xFFE#12).keyPort = none ∧ ({ ex with pc := 0xFFE#12, keyPort := some 0#4 }.reg 0#4).toNat % 16 = 0 ∧
    0xFFD < (ex.setPc 0xFFE#12).pc.toNat := by decide

theorem test_witness_BcdDigits : -- all three digits fit, two fit, one fits
    base.mem.wf = true ∧ (base.setI 0xFFD#12).i.toNat + 2 < 4096 ∧ (base.setI 0xFFE#12).i.toNat + 1 < 4096 ∧
    ¬ (base.setI 0xFFE#12).i.toNat + 2 < 4096 ∧ ¬ (base.setI 0xFFF#12).i.toNat + 1 < 4096 := by decide

theorem test_witness_StmStores_LdmLoads_StmLdmRoundTrip : -- V[0] and V[15] of X = 15; a byte that fits, one that does not
    base.mem.wf = true ∧ (15#4 : Nibble).toNat ≤ (15#4 : Nibble).toNat ∧
    (base.setI 0xFF0#12).i.toNat + (15#4 : Nibble).toNat < 4096 ∧
    ¬ (base.setI 0xFF1#12).i.toNat + (15#4 : Nibble).toNat < 4096 ∧
    exec (.stm 15#4) (base.setI 0xFF0#12) = .next (after (.stm 15#4) (base.setI 0xFF0#12)) :=
  ⟨by decide, by decide, by decide, by decide, rfl⟩

theorem test_witness_LdmLoads_any : -- under LDM_SHORT = any the register past 0xFFF takes its free value
    (after (.ldm 1#4) ({ base with params := { base.params with ldmShort := .any } }.setI 0xFFF#12)).reg 1#4 =
      Config.ldmFree 1 1 := rfl

theorem test_witness_DrawPixels : -- the corner cells; the sprite of one on pixel anchored at (63, 31) covers the last
    63 < 64 ∧ 31 < 32 ∧
    spriteCovers (bytes 0x300#12 [0xFF#8] (((ex.setReg 0#4 63#8).setReg 1#4 31#8).setI 0x300#12)) 0#4 1#4 1#4 63 31 = true ∧
    spriteCovers (bytes 0x300#12 [0xFF#8] (((ex.setReg 0#4 63#8).setReg 1#4 31#8).setI 0x300#12)) 0#4 1#4 1#4 62 31 = false ∧
    spriteCovers (bytes 0x300#12 [0xFF#8] (((ex.setReg 0#4 63#8).setReg 1#4 31#8).setI 0x300#12)) 0#4 1#4 1#4 63 30 = false := by
  decide

theorem test_witness_DrawTwiceRestores : -- the state the first DRAW left, with the same coordinates in V1 and V2
    exec (.draw 1#4 2#4 1#4) ex = .next (after (.draw 1#4 2#4 1#4) ex) ∧
    ((after (.draw 1#4 2#4 1#4) ex).reg 1#4).toNat % 64 = (ex.reg 1#4).toNat % 64 ∧
    ((after (.draw 1#4 2#4 1#4) ex).reg 2#4).toNat % 32 = (ex.reg 2#4).toNat % 32 := ⟨rfl, by decide, by decide⟩

theorem test_witness_DrawTwiceRestores_no_collision : -- a first DRAW that turns (0, 0) on, and one that changes nothing
    (after (.draw 1#4 2#4 1#4) (bytes 0x300#12 [0x80#8] (ex.setI 0x300#12))).reg 0xF#4 = 0#8 ∧
    (after (.draw 1#4 2#4 1#4) (bytes 0x300#12 [0x80#8] (ex.setI 0x300#12))).fb.pixel 0 0 = true ∧
    (after (.draw 1#4 2#4 0#4) ex).reg 0xF#4 = 0#8 := by decide

theorem test_witness_GtkTakesKeyOrWaits :
    ({ ex with keyPort := some 0xF#4 } : State).keyPort = some 0xF#4 ∧ ex.keyPort = none := ⟨rfl, rfl⟩

theorem test_witness_GtkWaitRepeats : -- at the last address an instruction can be executed from
    (words 0xFFD#12 [0xF30A#16] (base.setPc 0xFFD#12)).status = .running ∧
    (words 0xFFD#12 [0xF30A#16] (base.setPc 0xFFD#12)).pc.toNat ≤ 0xFFD ∧
    decode ((words 0xFFD#12 [0xF30A#16] (base.setPc 0xFFD#12)).mem.wordAt 0xFFD#12) = .instr (.gtk 3#4) ∧
    (words 0xFFD#12 [0xF30A#16] (base.setPc 0xFFD#12)).keyPort = none ∧
    (words 0xFFD#12 [0xF30A#16] (base.setPc 0xFFD#12)).tickPort ≠ 0 ∧
    ({ words 0xFFD#12 [0xF30A#16] (base.setPc 0xFFD#12) with tickPort := 0 } : State).tickPort = 0 := by decide

theorem test_witness_TimerStepTicks :
    ({ base with tickPort := 0 } : State).status = .running ∧ ({ base with tickPort := 0 } : State).tickPort = 0 := ⟨rfl, rfl⟩

/-- JMP(0x200) at 0x200, running. -/
def looping (s : State) : Prop := s.status = .running ∧ s.pc = 0x200#12 ∧ s.mem.wordAt 0x200#12 = 0x1200#16

/-- Every step of the loop is a step, and stays in it. -/
theorem looping_stepped {s : State} (h : looping s) : step s = .next (stepped s) ∧ looping (stepped s) := by
  obtain ⟨hr, hp, hw⟩ := h
  have hn : ∃ t, step s = .next t ∧ looping t := by
    rcases step_cases hr with ⟨_, e⟩ | ⟨_, e, _⟩ | ⟨_, e, _⟩ | ⟨_, _, e⟩
    · exact ⟨_, e, hr, hp, hw⟩
    · rw [hp] at e; exact absurd e (by decide)
    · rw [hp] at e; exact absurd e (by decide)
    · rw [hp, hw, show decode 0x1200#16 = .instr (.jmp 0x200#12) by decide] at e
      exact ⟨_, e, hr, rfl, hw⟩
  obtain ⟨t, ht, hl⟩ := hn
  have hs : stepped s = t := by simp only [stepped, ht]
  exact ⟨by rw [hs, ht], by rw [hs]; exact hl⟩

theorem test_witness_TimerTicksForever : InfiniteRun fun n => Nat.repeat stepped n (words 0x200#12 [0x1200#16] base) := by
  have h : ∀ n, looping (Nat.repeat stepped n (words 0x200#12 [0x1200#16] base)) := by
    intro n
    induction n with
    | zero => exact ⟨rfl, rfl, by decide⟩
    | succ n ih => exact (looping_stepped ih).2
  exact fun n => (looping_stepped (h n)).1

theorem test_witness_RegisterWriters : -- V[14] beside the destination V[0] and the flag
    exec (.add 0#4 1#4) ex = .next (after (.add 0#4 1#4) ex) ∧ writesReg (.add 0#4 1#4) 0xE#4 = false := ⟨rfl, rfl⟩

theorem test_witness_WritersOfEachState : -- an instruction that does change each piece
    (after (.setidx 1#12) ex).i ≠ ex.i ∧ (after (.call 0#12) ex).sp ≠ ex.sp ∧
    (after (.sdt 0#4) (ex.setReg 0#4 1#8)).dt ≠ ex.dt ∧ (after (.sst 0#4) (ex.setReg 0#4 1#8)).st ≠ ex.st ∧
    (after .cls ex).events ≠ ex.events ∧ (after (.call 0#12) ex).mem ≠ ex.mem := by decide

theorem test_witness_AgentsShareOnlyTimers : -- GTK is none of the three
    ∀ x, Instr.gtk 0#4 ≠ .gdt x ∧ Instr.gtk 0#4 ≠ .sdt x ∧ Instr.gtk 0#4 ≠ .sst x := by decide

theorem test_witness_PortsReadOnlyByTheirInstructions : -- RAND polls no key; SKE draws no byte
    (∀ x, Instr.rand 0#4 0#8 ≠ .ske x ∧ Instr.rand 0#4 0#8 ≠ .skn x ∧ Instr.rand 0#4 0#8 ≠ .gtk x) ∧
    ∀ x nn, Instr.ske 0#4 ≠ .rand x nn := ⟨by decide, fun _ _ h => by cases h⟩

theorem test_witness_StoppedStays : -- at the last address an instruction can be executed from
    (0xFFD#12 : Addr).toNat ≤ 0xFFD ∧ stoppedAt 0xFFD#12 (words 0xFFD#12 [0x1FFD#16] (base.setPc 0xFFD#12)) ∧
    (words 0xFFD#12 [0x1FFD#16] (base.setPc 0xFFD#12)).tickPort ≠ 0 :=
  ⟨by decide, ⟨rfl, rfl, by decide⟩, by decide⟩

end Sys2Proof.Tests
end

section
/-!
PROOFS. The scope statements: the timer agent's ticks (TimerStepTicks), the reset input (ResetInputRestores) and the
interpreter's step (StepRunsDecoded), with the frame and port laws they need.
-/
namespace Sys2Proof.Machine

/-! ### Frames -/

/-- Frames compose: two moves within one frame are a move within it. -/
theorem Frame.trans {w : Touched} {s t u : State} (hst : Frame w s t) (htu : Frame w t u) : Frame w s u := by
  obtain ⟨reg₁, pc₁, i₁, sp₁, dt₁, st₁, display₁, status₁, ports₁, mem₁, params₁⟩ := hst
  obtain ⟨reg₂, pc₂, i₂, sp₂, dt₂, st₂, display₂, status₂, ports₂, mem₂, params₂⟩ := htu
  refine ⟨fun x h => (reg₂ x h).trans (reg₁ x h), fun h => (pc₂ h).trans (pc₁ h), fun h => (i₂ h).trans (i₁ h),
    fun h => (sp₂ h).trans (sp₁ h), fun h => (dt₂ h).trans (dt₁ h), fun h => (st₂ h).trans (st₁ h), fun h => ?_,
    fun h => (status₂ h).trans (status₁ h), fun h => ?_, fun a h => (mem₂ a h).trans (mem₁ a h), params₂.trans params₁⟩
  · exact ⟨(display₂ h).1.trans (display₁ h).1, (display₂ h).2.trans (display₁ h).2⟩
  · obtain ⟨key₁, rand₁, tick₁, draws₁⟩ := ports₁ h
    obtain ⟨key₂, rand₂, tick₂, draws₂⟩ := ports₂ h
    exact ⟨key₂.trans key₁, rand₂.trans rand₁, tick₂.trans tick₁, draws₂.trans draws₁⟩

/-! ### Ticks -/

/-- A tick moves the two counters only (60_exceptions.md R246). -/
theorem State.frame_tick (s : State) : Frame { dt := true, st := true } s s.tick := by
  simp [Frame]

/-- The timer agent's step moves the two counters and the ports only (R246, R247). -/
theorem State.frame_tickStep (s : State) : Frame { dt := true, st := true, ports := true } s s.tickStep := by
  simp [Frame]

/-- `n` ticks in a row take `n` from each counter, saturating at 0, and move nothing else (R246). -/
theorem State.repeat_tick (s : State) (n : Nat) :
    (Nat.repeat State.tick n s).dt.toNat = s.dt.toNat - n ∧ (Nat.repeat State.tick n s).st.toNat = s.st.toNat - n ∧
      Frame { dt := true, st := true } s (Nat.repeat State.tick n s) := by
  induction n with
  | zero => exact ⟨rfl, rfl, Frame.refl _ s⟩
  | succ n ih =>
    obtain ⟨hdt, hst, hframe⟩ := ih
    refine ⟨?_, ?_, hframe.trans (State.frame_tick _)⟩
    · rw [Nat.repeat, State.tick_dt, toNat_tickByte, hdt, Nat.sub_sub]
    · rw [Nat.repeat, State.tick_st, toNat_tickByte, hst, Nat.sub_sub]

/-- Settles O54: one tick by `toNat_tickByte`, `n` ticks by induction on `n`, and the timer agent's step by `step_timer`. -/
theorem timerStepTicks : Obligations.TimerStepTicks := by
  intro s
  refine ⟨⟨toNat_tickByte s.dt, toNat_tickByte s.st, s.frame_tick⟩, s.repeat_tick, fun hrun hdue => ?_⟩
  exact ⟨s.tickStep, step_timer hrun hdue, rfl, rfl, s.frame_tickStep⟩

/-! ### The reset input -/

/-- After the reset input every register holds 0 (70_reset_and_hazards.md R270). -/
@[simp] theorem State.applyReset_reg (s : State) (font image : List Byte) (x : Nibble) :
    (s.applyReset font image).reg x = 0x00#8 :=
  Vector.getElem_replicate x.isLt

/-- After the reset input every pixel is off (R270). -/
@[simp] theorem State.applyReset_pixel (s : State) (font image : List Byte) (x y : Nat) :
    (s.applyReset font image).fb.pixel x y = false :=
  Framebuffer.pixel_blank x y

/-- The reset input leaves the Memory of a launch: the host's reload on an empty Memory, whatever the block's was (R271,
R273). -/
theorem State.applyReset_mem (s : State) (font image : List Byte) (sb : StackBase) :
    (s.applyReset font image).mem = (State.start font image sb).mem := rfl

/-- Settles O4: registers, pixels and Memory by the laws above; every other piece is a field that the reset input sets
from `State.reset` or, the parameters and the event stream, keeps. -/
theorem resetInputRestores : Obligations.ResetInputRestores := by
  intro s font image
  exact ⟨s.applyReset_reg font image, rfl, rfl, rfl, rfl, rfl, s.applyReset_pixel font image, rfl,
    fun a => congrArg (Memory.read · a) (s.applyReset_mem font image s.params.stackBase), rfl, rfl⟩

/-! ### The interpreter's step -/

/-- What follows the cycle acts on a next state only. -/
theorem afterCycle_eq_mapNext (o : Host.Outcome State Fault Refusal) :
    afterCycle o = mapNext State.refreshPorts o := by
  cases o <;> rfl

/-- Settles O6: of the cases of `step_cases` only the execution of the decoded word is neither a tick nor at 0xFFF or
0xFFE. -/
theorem stepRunsDecoded : Obligations.StepRunsDecoded := by
  intro s i hrun hturn hpc hdecode
  rcases step_cases hrun with ⟨hdue, -⟩ | ⟨-, htop, -⟩ | ⟨-, htop, -⟩ | ⟨-, -, hstep⟩
  · exact absurd hdue hturn
  · rw [htop] at hpc; exact absurd hpc (by decide)
  · rw [htop] at hpc; exact absurd hpc (by decide)
  · rw [hstep, hdecode, afterCycle_eq_mapNext, execDecoded]

end Sys2Proof.Machine
end

section
/-!
PROOFS. The state statements: who writes a register (RegisterWriters) and each other piece of state
(WritersOfEachState), and the invariant at reset and launch (ResetMeetsInvariant) and over every step
(StepKeepsInvariant). The first part says once what an instruction can do to the state (`Effect`); the writers and the
invariant's Memory and stack depth are read off it. The fault record rests on the decoder: a word is the one its
decoding stands for (`word_decode`).
-/
namespace Sys2Proof

/-! ### The word a decoding stands for -/

/-- A word with the fixed fields of format FXY is the encoding of its own `X` and `Y` (30_encoding.md R93). -/
theorem Word.encodeXY_of_fields {w : Word} {g n : Nibble} (hg : w.group = g) (hn : w.n = n) :
    encodeXY g w.x w.y n = w := by
  rw [← hg, ← hn, Word.eq_encodeXY]

/-- A word with the fixed fields of format FX is the encoding of its own `X` (R93). -/
theorem Word.encodeXK_of_fields {w : Word} {g : Nibble} {k : Byte} (hg : w.group = g) (hk : w.nn = k) :
    encodeXK g w.x k = w := by
  rw [← hg, ← hk, Word.eq_encodeXK]

/-- A word of a group of format FA is the encoding of its own `NNN` (R93). -/
theorem Word.encodeA_of_group {w : Word} {g : Nibble} (hg : w.group = g) : encodeA g w.nnn = w := by
  rw [← hg, Word.eq_encodeA]

/-- The word a decoding stands for: the encoding of the instruction, or the word the invalid-opcode marker carries (R96). -/
def Decoded.word : Decoded → Word
  | .instr i    => encode i
  | .invalid op => op

/-- One test of the decoder: if the word that passes it is the encoding of the test's instruction, what is left to show
is of the tests after it. -/
theorem word_ite {c : Prop} [Decidable c] {w : Word} {i : Instr} {d : Decoded} (hi : c → encode i = w)
    (hd : d.word = w) : (if c then .instr i else d).word = w := by
  by_cases h : c
  · rw [if_pos h]; exact hi h
  · rw [if_neg h]; exact hd

/-- Group 0x0 compares the whole word. -/
theorem word_decodeGroup0 (w : Word) : (decodeGroup0 w).word = w :=
  word_ite Eq.symm (word_ite Eq.symm rfl)

/-- Group 0x8 selects on `N`: every accepted word is of format FXY. -/
theorem word_decodeGroup8 {w : Word} (hg : w.group = 0x8#4) : (decodeGroup8 w).word = w := by
  unfold decodeGroup8
  iterate 9 refine word_ite (Word.encodeXY_of_fields hg) ?_
  rfl

/-- Group 0xE selects on `NN`: every accepted word is of format FX. -/
theorem word_decodeGroupE {w : Word} (hg : w.group = 0xE#4) : (decodeGroupE w).word = w := by
  unfold decodeGroupE
  iterate 2 refine word_ite (Word.encodeXK_of_fields hg) ?_
  rfl

/-- Group 0xF selects on `NN`: every accepted word is of format FX. -/
theorem word_decodeGroupF {w : Word} (hg : w.group = 0xF#4) : (decodeGroupF w).word = w := by
  unfold decodeGroupF
  iterate 9 refine word_ite (Word.encodeXK_of_fields hg) ?_
  rfl

/-- Decoding loses nothing: every word is the one its decoding stands for (R96). -/
theorem word_decode (w : Word) : (decode w).word = w := by
  rcases w.group_cases with hg | hg | hg | hg | hg | hg | hg | hg | hg | hg | hg | hg | hg | hg | hg | hg
  · rw [decode_group0 hg]; exact word_decodeGroup0 w
  · rw [decode_group1 hg]; exact Word.encodeA_of_group hg
  · rw [decode_group2 hg]; exact Word.encodeA_of_group hg
  · rw [decode_group3 hg]; exact Word.encodeXK_of_fields hg rfl
  · rw [decode_group4 hg]; exact Word.encodeXK_of_fields hg rfl
  · rw [decode_group5 hg]; exact word_ite (Word.encodeXY_of_fields hg) rfl
  · rw [decode_group6 hg]; exact Word.encodeXK_of_fields hg rfl
  · rw [decode_group7 hg]; exact Word.encodeXK_of_fields hg rfl
  · rw [decode_group8 hg]; exact word_decodeGroup8 hg
  · rw [decode_group9 hg]; exact word_ite (Word.encodeXY_of_fields hg) rfl
  · rw [decode_groupA hg]; exact Word.encodeA_of_group hg
  · rw [decode_groupB hg]; exact Word.encodeA_of_group hg
  · rw [decode_groupC hg]; exact Word.encodeXK_of_fields hg rfl
  · rw [decode_groupD hg]; exact Word.encodeXY_of_fields hg rfl
  · rw [decode_groupE hg]; exact word_decodeGroupE hg
  · rw [decode_groupF hg]; exact word_decodeGroupF hg

/-- The encoding of a decoded instruction is the word it was decoded from. -/
theorem encode_of_decode {w : Word} {i : Instr} (h : decode w = .instr i) : encode i = w :=
  (congrArg Decoded.word h).symm.trans (word_decode w)

/-- The invalid-opcode marker carries the word it was decoded from (R96). -/
theorem eq_of_decode_invalid {w op : Word} (h : decode w = .invalid op) : op = w :=
  (congrArg Decoded.word h).symm.trans (word_decode w)

end Sys2Proof

namespace Sys2Proof.Machine
open Host

/-! ### What an instruction can do to the state -/

/-- What instruction `i` can do to state `s`, piece by piece of 10_state.md: each constructor names the instructions
that write its piece, and gives the state they leave. -/
inductive Effect (i : Instr) (s : State) : State → Prop
  /-- The registers `i` may write (R32, R33), and nothing else. -/
  | regs (v : Regs) (hv : ∀ r, writesReg i r = false → (s.setRegs v).reg r = s.reg r) : Effect i s (s.setRegs v)
  /-- A move of pc or a fatal error (R36, 60_exceptions.md R231). -/
  | control (p : Addr) (st : Status) : Effect i s { s with pc := p, status := st }
  /-- CALL with room on the stack (40_control_flow.md R123). -/
  | push (a : Addr) (hi : i = .call a) (hs : s.sp ≠ 32) : Effect i s ((s.push s.pc).setPc a)
  /-- RET of a nonempty stack (40_control_flow.md R121). -/
  | pop (hi : i = .ret) : Effect i s (s.dropTop.setPc s.top)
  /-- I (R34). -/
  | index (a : Addr) (hi : (∃ a, i = .setidx a) ∨ (∃ x, i = .addidx x) ∨ (∃ x, i = .font x)) : Effect i s (s.setI a)
  /-- DT (R41). -/
  | delay (b : Byte) (hi : ∃ x, i = .sdt x) : Effect i s (s.setDt b)
  /-- ST (R42). -/
  | sound (b : Byte) (hi : ∃ x, i = .sst x) : Effect i s (s.setSt b)
  /-- The framebuffer, with the event stream and the registers `i` may write (R43, 43_display.md R197). -/
  | display (fb : Framebuffer) (ev : List DisplayEvent) (v : Regs) (hi : i = .cls ∨ ∃ x y n, i = .draw x y n)
      (hv : ∀ r, writesReg i r = false → (s.setRegs v).reg r = s.reg r) : Effect i s ((s.setDisplay fb ev).setRegs v)
  /-- Memory, by one clamped write (20_memory.md R69). -/
  | store (a : Addr) (bs : List Byte) (hi : (∃ x, i = .bcd x) ∨ ∃ x, i = .stm x) :
      Effect i s (s.setMem (s.mem.memWrite a bs))

namespace Effect

variable {i : Instr} {s t : State}

/-- A write of one register that `i` may write. -/
theorem setReg {x : Nibble} (b : Byte) (hx : writesReg i x = true) : Effect i s (s.setReg x b) := by
  refine .regs (s.setReg x b).v fun r hr => ?_
  have hne : r ≠ x := by rintro rfl; simp [hr] at hx
  exact (s.setReg_reg x r b).trans (if_neg hne)

/-- A flagged result in registers that `i` may write. -/
theorem setFlagged {x : Nibble} (f b : Byte) (hx : writesReg i x = true) (hf : writesReg i flagReg = true) :
    Effect i s (s.setFlagged x f b) := by
  refine .regs (s.setFlagged x f b).v fun r hr => ?_
  have hne : r ≠ x := by rintro rfl; simp [hr] at hx
  have hnf : r ≠ flagReg := by rintro rfl; simp [hr] at hf
  exact (s.setFlagged_reg x r f b).trans (by rw [if_neg hne, if_neg hnf])

/-- A skip, taken or not or past the top, moves pc or raises (40_control_flow.md R120). -/
theorem skipIf (c : Bool) (j : Instr) : Effect i s (s.skipIf c j) := by
  rcases s.skipIf_cases c j with ⟨-, h⟩ | ⟨-, -, h⟩ | ⟨-, -, h⟩
  · rw [h]; exact .control s.pc s.status
  · rw [h]; exact .control _ s.status
  · rw [h]; exact .control s.pc _

end Effect

/-- LDM's clamped read finds at most a byte for each of V[0]..V[x] (42_index_memory.md R175). -/
theorem State.length_ldmBytes_le (s : State) (x : Nibble) : (s.ldmBytes x).length ≤ x.toNat + 1 := by
  rw [State.ldmBytes, Memory.length_memRead]
  exact Nat.min_le_left _ _

/-- LDM's free values are for registers of V[0]..V[x] only (R175). -/
theorem State.length_ldmMissing_le (s : State) (x : Nibble) (k : Nat) :
    (s.ldmMissing x k).length ≤ x.toNat + 1 - k := by
  unfold State.ldmMissing
  split <;> simp

/-- LDM leaves the registers above V[x] alone (R175). -/
theorem effect_ldm (x : Nibble) (s : State) : ∃ t, exec (.ldm x) s = .next t ∧ Effect (.ldm x) s t := by
  refine ⟨_, rfl, .regs _ fun r hr => ?_⟩
  have hxr : x.toNat < r.toNat := by simpa [writesReg] using hr
  have hlen := s.length_ldmBytes_le x
  have hmissing := s.length_ldmMissing_le x (s.ldmBytes x).length
  rw [State.setRegs_reg, Regs.getElem_load r.isLt, dif_neg (by omega), Regs.getElem_load r.isLt, dif_neg (by omega)]
  rfl

/-- CALL pushes or raises (40_control_flow.md R123). -/
theorem effect_call (a : Addr) (s : State) : ∃ t, exec (.call a) s = .next t ∧ Effect (.call a) s t := by
  by_cases hs : s.sp = 32
  · exact ⟨_, exec_call_full a hs, .control s.pc _⟩
  · exact ⟨_, exec_call_room a hs, .push a rfl hs⟩

/-- RET pops or raises (R121). -/
theorem effect_ret (s : State) : ∃ t, exec .ret s = .next t ∧ Effect .ret s t := by
  by_cases hs : s.sp = 0
  · exact ⟨_, exec_ret_empty hs, .control s.pc _⟩
  · exact ⟨_, exec_ret_nonempty hs, .pop rfl⟩

/-- GTK takes the key or waits (44_timers_keys.md R215). -/
theorem effect_gtk (x : Nibble) (s : State) : ∃ t, exec (.gtk x) s = .next t ∧ Effect (.gtk x) s t := by
  cases hk : s.keyPort with
  | none => exact ⟨_, exec_gtk_wait x hk, .control _ s.status⟩
  | some k => exact ⟨_, exec_gtk_key x hk, .setReg _ (by simp [writesReg])⟩

/-- DRAW changes the display and VF (43_display.md R191, R192). -/
theorem effect_draw (x y n : Nibble) (s : State) : ∃ t, exec (.draw x y n) s = .next t ∧ Effect (.draw x y n) s t := by
  refine ⟨_, rfl, .display _ _ (s.setReg flagReg _).v (.inr ⟨x, y, n, rfl⟩) fun r hr => ?_⟩
  have hnf : r ≠ flagReg := by simpa [writesReg] using hr
  exact (s.setReg_reg flagReg r _).trans (if_neg hnf)

/-- Every instruction has a next state, and what it does to the state is an effect of it (30_encoding.md R113). -/
theorem exec_effect (i : Instr) (s : State) : ∃ t, exec i s = .next t ∧ Effect i s t := by
  cases i with
  | seti x | addi x | set x | or x | and x | xor x | rand x | gdt x =>
    exact ⟨_, rfl, .setReg _ (by simp [writesReg])⟩
  | add x | sub x | shr x | nsub x | shl x =>
    exact ⟨_, rfl, .setFlagged _ _ (by simp [writesReg]) (by simp [writesReg])⟩
  | seq | sne | sre | srne | ske | skn => exact ⟨_, rfl, .skipIf _ _⟩
  | jmp | jmpo => exact ⟨_, rfl, .control _ s.status⟩
  | call a => exact effect_call a s
  | ret => exact effect_ret s
  | setidx a => exact ⟨_, rfl, .index _ (.inl ⟨a, rfl⟩)⟩
  | addidx x => exact ⟨_, rfl, .index _ (.inr (.inl ⟨x, rfl⟩))⟩
  | font x => exact ⟨_, rfl, .index _ (.inr (.inr ⟨x, rfl⟩))⟩
  | bcd x => exact ⟨_, rfl, .store _ _ (.inl ⟨x, rfl⟩)⟩
  | stm x => exact ⟨_, rfl, .store _ _ (.inr ⟨x, rfl⟩)⟩
  | ldm x => exact effect_ldm x s
  | sdt x => exact ⟨_, rfl, .delay _ ⟨x, rfl⟩⟩
  | sst x => exact ⟨_, rfl, .sound _ ⟨x, rfl⟩⟩
  | gtk x => exact effect_gtk x s
  | cls => exact ⟨_, rfl, .display Framebuffer.blank (s.events ++ [DisplayEvent.clear]) s.v (.inl rfl) fun _ _ => rfl⟩
  | draw x y n => exact effect_draw x y n s

/-- The next state of an instruction is an effect of it. -/
theorem effect_of_exec {i : Instr} {s t : State} (h : exec i s = .next t) : Effect i s t := by
  obtain ⟨t', ht', he⟩ := exec_effect i s
  obtain rfl : t' = t := Outcome.next.inj (ht'.symm.trans h)
  exact he

/-! ### The writers of each piece of state -/

/-- Settles O56: a register changes by the effects on registers and on the display only, and there by the registers
the instruction may write. -/
theorem registerWriters : Obligations.RegisterWriters := by
  intro i s t r h hr
  cases effect_of_exec h with
  | regs v hv | display fb ev v hi hv => exact hv r hr
  | control | push | pop | index | delay | sound | store => rfl

/-- Settles O57: each effect changes the piece its constructor names, and only the instructions it names have it. -/
theorem writersOfEachState : Obligations.WritersOfEachState := by
  intro i s t h
  cases effect_of_exec h with
  | regs | control => simp
  | push a hi => simp [State.push, hi]
  | pop hi => simp [State.dropTop, hi]
  | index a hi => simp [hi]
  | delay b hi => simp [hi]
  | sound b hi => simp [hi]
  | display fb ev v hi => simp [hi]
  | store a bs hi => simp [hi]

/-! ### Memory and the stack depth -/

/-- An instruction keeps the canonical form: it writes Memory by clamped writes only (20_memory.md R63). -/
theorem exec_mem_wf {i : Instr} {s t : State} (h : exec i s = .next t) (hm : s.mem.wf = true) : t.mem.wf = true := by
  cases effect_of_exec h with
  | push | store => exact Memory.wf_memWrite _ _ hm
  | regs | control | pop | index | delay | sound | display => exact hm

/-- An instruction keeps the stack depth in 0..32 (10_state.md R40): CALL adds an entry only where one is free. -/
theorem exec_sp_le {i : Instr} {s t : State} (h : exec i s = .next t) (hs : s.sp ≤ 32) : t.sp ≤ 32 := by
  cases effect_of_exec h with
  | push a hi hne => simp only [State.push, State.setPc_sp, State.setSp_sp]; omega
  | pop => simp only [State.dropTop, State.setPc_sp, State.setSp_sp]; omega
  | regs | control | index | delay | sound | display | store => exact hs

/-! ### The fault record -/

/-- A running state has no record. -/
theorem statusFits_of_running {s : State} (hrun : s.status = .running) : statusFits s := by
  intro c p w h
  rw [hrun] at h
  cases h

/-- The record a fatal error leaves is the one it was raised with (60_exceptions.md R231). -/
theorem statusFits_raise {s : State} {c : Cause} {p : Addr} {w : Option Word} (h : recordFits s c p w) :
    statusFits (s.raise c p w) := by
  intro c' p' w' hst
  cases hst
  exact h

/-- An instruction run out of `p` leaves no record, or one that fits: its fatal errors record `p`, which pc - 2 is, and
its encoding, which the word at `p` is (R232, R233, R240). -/
theorem exec_statusFits {i : Instr} {s t : State} {p : Addr} (hrun : s.status = .running) (hp : p.toNat ≤ 0xFFD)
    (hpc : s.pc = p + 2#12) (hdecode : decode (s.mem.wordAt p) = .instr i) (h : exec i s = .next t) :
    statusFits t := by
  have haddr : s.pc - 2#12 = p := by rw [hpc, add_two_sub_two]
  have hnext : s.pc.toNat = p.toNat + 2 := by rw [hpc, toNat_add_two hp]
  have hword := encode_of_decode hdecode
  rcases exec_status h with hst | ⟨⟨a, rfl⟩, hsp, rfl⟩ | ⟨rfl, hsp, rfl⟩ | ⟨hskip, htop, rfl⟩
  · exact statusFits_of_running (hst.trans hrun)
  · rw [haddr, hword]
    exact statusFits_raise ⟨rfl, hp, hnext, hsp, a, hdecode⟩
  · rw [haddr]
    exact statusFits_raise ⟨rfl, hword.symm, hp, hnext, hsp⟩
  · rw [haddr, hword]
    exact statusFits_raise ⟨rfl, .inr ⟨hp, hnext, htop, i, hdecode, hskip⟩⟩

/-! ### The invariant -/

/-- The execute phase of the word fetched from `p` leaves the invariant true, the Invalid word's fatal error included
(R237). -/
theorem execDecoded_inv {s t : State} {p : Addr} (hmem : s.mem.wf = true) (hsp : s.sp ≤ 32)
    (hrun : s.status = .running) (hp : p.toNat ≤ 0xFFD) (hpc : s.pc = p + 2#12)
    (h : execDecoded (decode (s.mem.wordAt p)) s = .next t) : t.Inv := by
  cases hdecode : decode (s.mem.wordAt p) with
  | instr i =>
    rw [hdecode, execDecoded] at h
    exact ⟨exec_mem_wf h hmem, exec_sp_le h hsp, exec_statusFits hrun hp hpc hdecode h⟩
  | invalid op =>
    rw [hdecode, execDecoded] at h
    obtain rfl := Outcome.next.inj h
    obtain rfl := eq_of_decode_invalid hdecode
    refine ⟨hmem, hsp, ?_⟩
    rw [State.fetchAddr, hpc, add_two_sub_two]
    exact statusFits_raise ⟨rfl, hp, by rw [hpc, toNat_add_two hp], hdecode⟩

/-- Only a running block has a next state (30_encoding.md R110, 60_exceptions.md R248). -/
theorem running_of_step {s t : State} (h : step s = .next t) : s.status = .running := by
  cases hst : s.status with
  | running => rfl
  | halted => simp [step, hst] at h

/-- What follows an interpreter step's cycle is the ports' move. -/
theorem afterCycle_eq_next {o : Outcome State Fault Refusal} {t : State} (h : afterCycle o = .next t) :
    ∃ u, o = .next u ∧ t = u.refreshPorts := by
  cases o with
  | next u => exact ⟨u, rfl, (Outcome.next.inj h).symm⟩
  | fault | refused => cases h

/-- The invariant speaks of none of the ports. -/
theorem State.inv_refreshPorts {s : State} (h : s.Inv) : s.refreshPorts.Inv := h

/-- Settles O5: by the cases of `step_cases`. A tick leaves Memory, SP and status as they are; the two fatal fetches
record pc itself; every other step is the execute phase of the fetched word. -/
theorem stepKeepsInvariant : Obligations.StepKeepsInvariant := by
  intro s t hinv hstep
  have hrun := running_of_step hstep
  obtain ⟨hmem, hsp, -⟩ := hinv
  rcases step_cases hrun with ⟨-, hcase⟩ | ⟨-, hpc, hcase⟩ | ⟨-, hpc, hcase⟩ | ⟨-, hpc, hcase⟩ <;> rw [hcase] at hstep
  · obtain rfl := Outcome.next.inj hstep
    exact ⟨hmem, hsp, statusFits_of_running hrun⟩
  · obtain rfl := Outcome.next.inj hstep
    exact State.inv_refreshPorts ⟨hmem, hsp, statusFits_raise ⟨hpc, rfl, rfl⟩⟩
  · obtain rfl := Outcome.next.inj hstep
    exact State.inv_refreshPorts ⟨hmem, hsp, statusFits_raise ⟨rfl, .inl ⟨hpc, rfl⟩⟩⟩
  · obtain ⟨u, hu, rfl⟩ := afterCycle_eq_next hstep
    exact State.inv_refreshPorts (execDecoded_inv (s := s.setPc (s.pc + 2#12)) hmem hsp hrun hpc rfl hu)

/-- Settles O3: no record at reset or launch, SP is 0, and the host's load keeps the empty Memory's canonical form. -/
theorem resetMeetsInvariant : Obligations.ResetMeetsInvariant :=
  ⟨⟨rfl, Nat.zero_le 32, statusFits_of_running rfl⟩, fun font image _ =>
    ⟨State.wf_load _ font image rfl, Nat.zero_le 32, statusFits_of_running rfl⟩⟩

end Sys2Proof.Machine
end

section
/-!
PROOFS. The memory statements: the clamped read (ReadClamped) and write (WriteClamped), the canonical form
(CanonicalMemoryUnique), and the word a fetch reads (FetchBigEndian, PlacedWordIsFetched). The clamped write gets one
reading rule (`Memory.read_memWrite`) and one frame (`State.frame_memWrite`).
-/
namespace Sys2Proof

/-! ### The bytes of a word -/

/-- The first byte of a fetched word is its bits 15..8 (20_memory.md R66). -/
@[simp] theorem extractLsb'_wordOfBytes_high (hi lo : Byte) : (wordOfBytes hi lo).extractLsb' 8 8 = hi := by
  apply BitVec.eq_of_toNat_eq
  have hhi := hi.isLt
  have hlo := lo.isLt
  simp only [wordOfBytes, Word.toNat_field, BitVec.toNat_ofNat]
  omega

/-- The second byte of a fetched word is its bits 7..0 (R66). -/
@[simp] theorem extractLsb'_wordOfBytes_low (hi lo : Byte) : (wordOfBytes hi lo).extractLsb' 0 8 = lo := by
  apply BitVec.eq_of_toNat_eq
  have hlo := lo.isLt
  simp only [wordOfBytes, Word.toNat_field, BitVec.toNat_ofNat]
  omega

/-- A number below 2^16 laid out for a fetch is the word of that number. -/
theorem tableWordBytes_of_lt {w : Nat} (hw : w < 65536) : tableWordBytes 16 w = bytesOfWord (BitVec.ofNat 16 w) := by
  rw [tableWordBytes, Nat.mod_eq_of_lt (show w < 2 ^ 16 from hw)]

end Sys2Proof

namespace Sys2Proof.Machine

/-! ### The canonical form -/

/-- No address below the first entry of a canonical memory reads as listed. -/
theorem Memory.le_of_read_ne {lo k a : Nat} {b : Byte} {m : Memory} (hm : Memory.wfFrom lo ((k, b) :: m) = true)
    (ha : Memory.read ((k, b) :: m) a ≠ unlistedByte) : k ≤ a := by
  obtain ⟨-, hk, hb, htail⟩ := (Memory.wfFrom_cons lo k b m).1 hm
  have hhead : Memory.wfFrom k ((k, b) :: m) = true := (Memory.wfFrom_cons k k b m).2 ⟨Nat.le_refl k, hk, hb, htail⟩
  exact Nat.le_of_not_lt fun hlt => ha (Memory.read_below hhead hlt)

/-- The first entry of a canonical memory reads as listed. -/
theorem Memory.read_head_ne {lo k : Nat} {b : Byte} {m : Memory} (hm : Memory.wfFrom lo ((k, b) :: m) = true) :
    Memory.read ((k, b) :: m) k ≠ unlistedByte := by
  obtain ⟨-, -, hb, -⟩ := (Memory.wfFrom_cons lo k b m).1 hm
  rwa [Memory.read_cons, if_pos rfl]

/-- The entries after the first read as the whole canonical memory does, but for the first address, which they do not
list. -/
theorem Memory.read_tail {lo k : Nat} {b : Byte} {m : Memory} (hm : Memory.wfFrom lo ((k, b) :: m) = true) (a : Nat) :
    m.read a = if a = k then unlistedByte else Memory.read ((k, b) :: m) a := by
  obtain ⟨-, -, -, htail⟩ := (Memory.wfFrom_cons lo k b m).1 hm
  split
  case isTrue heq => exact Memory.read_below htail (by omega)
  case isFalse hne => rw [Memory.read_cons, if_neg hne]

/-- Canonical memories that read alike are equal: they list the same first address, each having no entry below it, with
the same byte, and what follows reads alike. -/
theorem Memory.eq_of_read_eq : ∀ {lo : Nat} {m n : Memory}, m.wfFrom lo = true → n.wfFrom lo = true →
    (∀ a, m.read a = n.read a) → m = n
  | _, [], [], _, _, _ => rfl
  | _, [], (k, _) :: _, _, hn, h => absurd (h k).symm (Memory.read_head_ne hn)
  | _, (k, _) :: _, [], hm, _, h => absurd (h k) (Memory.read_head_ne hm)
  | lo, (k, b) :: m, (k', b') :: n, hm, hn, h => by
    obtain rfl : k = k' := Nat.le_antisymm
      (Memory.le_of_read_ne hm (h k' ▸ Memory.read_head_ne hn))
      (Memory.le_of_read_ne hn (h k ▸ Memory.read_head_ne hm))
    obtain rfl : b = b' := by simpa using h k
    have htail : ∀ a, Memory.read m a = Memory.read n a := fun a => by
      rw [Memory.read_tail hm, Memory.read_tail hn, h]
    obtain ⟨-, -, -, hm'⟩ := (Memory.wfFrom_cons lo k b m).1 hm
    obtain ⟨-, -, -, hn'⟩ := (Memory.wfFrom_cons lo k b n).1 hn
    rw [Memory.eq_of_read_eq hm' hn' htail]

/-- Settles O22: the canonical form from address 0 on. -/
theorem canonicalMemoryUnique : Obligations.CanonicalMemoryUnique :=
  fun _ _ hm hn h => Memory.eq_of_read_eq hm hn h

/-! ### The clamped accesses -/

/-- Of `n` bytes at `a`, byte `j` lies in Memory when it is one of them and its address is below MEM_SIZE (R62, R63). -/
theorem lt_clampLen_iff {a : Addr} {n j : Nat} : j < clampLen a n ↔ j < n ∧ a.toNat + j < 4096 := by
  simp only [clampLen, memSize]
  omega

/-- The addresses of `n` bytes at `a` are those from `a` on, as many as lie in Memory. -/
theorem mem_bytesAt {a : Addr} {n c : Nat} : c ∈ bytesAt a n ↔ a.toNat ≤ c ∧ c - a.toNat < clampLen a n := by
  simp only [bytesAt, List.mem_map, List.mem_range]
  constructor
  · rintro ⟨j, hj, rfl⟩
    exact ⟨Nat.le_add_right _ _, by rwa [Nat.add_sub_cancel_left]⟩
  · rintro ⟨hle, hlt⟩
    exact ⟨c - a.toNat, hlt, Nat.add_sub_cancel' hle⟩

/-- What a canonical memory reads as after a clamped write (R63). -/
theorem Memory.read_memWrite {m : Memory} (a : Addr) (bs : List Byte) (hm : m.wf = true) (c : Nat) :
    (m.memWrite a bs).read c =
      if a.toNat ≤ c ∧ c - a.toNat < clampLen a bs.length then bs.getD (c - a.toNat) 0x00#8 else m.read c := by
  split
  case isTrue hin =>
    obtain ⟨hle, hlt⟩ := hin
    obtain ⟨j, rfl⟩ := Nat.exists_eq_add_of_le hle
    rw [Nat.add_sub_cancel_left] at hlt ⊢
    have hj : j < bs.length := (lt_clampLen_iff.1 hlt).1
    rw [Memory.read_memWrite_inside a bs hm hlt, List.getD_eq_getElem?_getD, List.getElem?_eq_getElem hj,
      Option.getD_some]
  case isFalse hout => exact Memory.read_memWrite_outside m a bs (by omega)

/-- A clamped write changes no more than the bytes it reaches (R63). -/
theorem State.frame_memWrite (s : State) (a : Addr) (bs : List Byte) :
    Frame { bytes := bytesAt a bs.length } s (s.setMem (s.mem.memWrite a bs)) := by
  have hmem : ∀ c, c ∉ bytesAt a bs.length → (s.mem.memWrite a bs).read c = s.mem.read c := fun c hc =>
    Memory.read_memWrite_outside s.mem a bs (by rw [mem_bytesAt] at hc; omega)
  simpa [Frame] using hmem

/-- Settles O20: the length is the clamp's, and byte `j` is the one at `a + j`. -/
theorem readClamped : Obligations.ReadClamped := by
  intro m a n
  refine ⟨m.length_memRead a n, fun j hj => ?_⟩
  have hlen : j < (m.memRead a n).length := by rwa [Memory.length_memRead]
  rw [List.getElem?_eq_getElem hlen, Memory.getElem_memRead]

/-- Settles O21: the address a byte is written to lies in Memory exactly when the clamp keeps the byte. -/
theorem writeClamped : Obligations.WriteClamped := by
  intro m a bs hm
  refine ⟨Memory.wf_memWrite a bs hm, fun c => ?_⟩
  have hfits : (a.toNat ≤ c ∧ c - a.toNat < clampLen a bs.length) ↔
      (a.toNat ≤ c ∧ c - a.toNat < bs.length ∧ c < 4096) := by
    rw [lt_clampLen_iff]
    omega
  simp only [Memory.read_memWrite a bs hm, hfits]

/-! ### The word a fetch reads -/

/-- Where an instruction can be executed from, the fetch gives the word at pc and advances pc by 2 (30_encoding.md
R111). -/
theorem State.fetch_of_le {s : State} (h : s.pc.toNat ≤ 0xFFD) :
    s.fetch = .word (s.mem.wordAt s.pc) (s.setPc (s.pc + 2#12)) := by
  rcases s.fetch_cases with ⟨htop, -⟩ | ⟨htop, -⟩ | ⟨-, hfetch⟩
  · rw [htop] at h; exact absurd h (by decide)
  · rw [htop] at h; exact absurd h (by decide)
  · exact hfetch

/-- Settles O7: the word at an address is put together from its two bytes, and the fetch gives that word. -/
theorem fetchBigEndian : Obligations.FetchBigEndian := by
  intro m p
  refine ⟨extractLsb'_wordOfBytes_high _ _, extractLsb'_wordOfBytes_low _ _, ?_⟩
  rintro s rfl rfl hpc
  exact State.fetch_of_le hpc

/-- A word stored big-endian where both bytes lie in Memory is the word at that address (20_memory.md R63, R66). -/
theorem Memory.wordAt_memWrite {m : Memory} {a : Addr} (hm : m.wf = true) (ha : a.toNat ≤ 0xFFE) (w : Word) :
    (m.memWrite a (bytesOfWord w)).wordAt a = w := by
  have hlen : clampLen a (bytesOfWord w).length = 2 := by
    simp only [clampLen, memSize, bytesOfWord, List.length_cons, List.length_nil]
    omega
  have hhigh : (m.memWrite a (bytesOfWord w)).read a.toNat = w.extractLsb' 8 8 :=
    Memory.read_memWrite_inside a _ hm (j := 0) (by omega)
  have hlow : (m.memWrite a (bytesOfWord w)).read (a.toNat + 1) = w.extractLsb' 0 8 :=
    Memory.read_memWrite_inside a _ hm (j := 1) (by omega)
  rw [Memory.wordAt, hhigh, hlow, wordOfBytes_bytes]

/-- Placing a word for the next step is giving the interpreter the turn and storing the word's bytes at pc (log 9). -/
theorem State.withFetchWord_eq (s : State) {w : Nat} (hw : w < 65536) :
    s.withFetchWord 16 w =
      s.interpreterNext.setMem (s.mem.memWrite s.pc (bytesOfWord (BitVec.ofNat 16 w))) := by
  rw [State.withFetchWord, State.placeTableWord, tableWordBytes_of_lt hw]
  rfl

/-- Settles O23: after the turn is given, placing the word is one clamped write of two bytes, which both fit. -/
theorem placedWordIsFetched : Obligations.PlacedWordIsFetched := by
  intro s w hm hpc hw
  rw [s.withFetchWord_eq hw]
  refine ⟨?_, s.interpreterNext.frame_memWrite s.pc _⟩
  rw [State.setMem_mem, Memory.wordAt_memWrite hm hpc, BitVec.toNat_ofNat, Nat.mod_eq_of_lt hw]

end Sys2Proof.Machine
end

section
/-!
PROOFS. The encoding statements: decode of encode (DecodeEncode) and encode of decode (EncodeDecode), the opcode table
(DecodesIffInTable), the Invalid encodings (InvalidWordsListed) and known words (KnownWordsDecode); the fetch
(FetchRule) and when the block steps (HaltedHasNoStep, RunningAlwaysSteps). That the decoder accepts the table's words
rests on decode of encode: a word that fits a row is an encoding (`exists_encode_of_fits`).
-/
namespace Sys2Proof

/-! ### Decode of encode -/

/-- The decoder reads an instruction back from its word: the fields of the encoding's format select the instruction
within its group and are its operands (30_encoding.md R93, R95, R96). -/
theorem decode_encode (i : Instr) : decode (encode i) = .instr i := by
  cases i with
  | cls | ret => rfl
  | jmp | call | seq | sne | seti | addi | setidx | jmpo | rand | draw => simp [encode, decode]
  | sre | srne => simp [encode, decode]
  | set | or | and | xor | add | sub | shr | nsub | shl => simp [encode, decode, decodeGroup8]
  | ske | skn => simp [encode, decode, decodeGroupE]
  | gdt | gtk | sdt | sst | addidx | font | bcd | stm | ldm => simp [encode, decode, decodeGroupF]

/-- The decoder reads from a word's bytes what it reads from the word (20_memory.md R66). -/
theorem decodeTableWord_of_decode {w : Word} {i : Instr} (h : decode w = .instr i) :
    decodeTableWord 16 w.toNat = some i := by
  have hbytes : decodeBytes (bytesOfWord w) = .ok (i, []) := by
    simpa [h] using decodeBytes_bytesOfWord w []
  rw [decodeTableWord, tableWordBytes_of_lt w.isLt, BitVec.ofNat_toNat, BitVec.setWidth_eq, hbytes]

/-- Settles O15: by `decode_encode`, from the word and from its bytes. -/
theorem decodeEncode : Obligations.DecodeEncode :=
  fun i => ⟨decode_encode i, decodeTableWord_of_decode (decode_encode i)⟩

/-- Settles O16: a decoding stands for the word it was decoded from (`word_decode`). -/
theorem encodeDecode : Obligations.EncodeDecode :=
  fun _ => ⟨fun _ => encode_of_decode, fun _ => eq_of_decode_invalid⟩

/-! ### The opcode table -/

/-- The word an instruction is encoded to fits its row, which stands in the table (R95). -/
theorem tableRow_statement (i : Instr) : Laws.TableRow.Statement i :=
  open Laws.TableRow in
  Instr.casesOn i cls ret jmp call seq sne sre seti addi set or and xor add sub shr nsub shl srne setidx jmpo rand draw
    ske skn gdt gtk sdt sst addidx font bcd stm ldm

/-- A row fits the words whose bits under its mask are its value. -/
theorem OpRow.fits_iff {r : OpRow} {w : Word} : r.fits w = true ↔ w &&& r.mask = r.value := beq_iff_eq

/-- A row that fixes all bits fits its own word only. -/
theorem eq_of_fits {m : String} {v w : Word} (h : OpRow.fits ⟨m, v, 0xFFFF#16⟩ w = true) : v = w := by
  have hv : w &&& BitVec.allOnes 16 = v := OpRow.fits_iff.1 h
  rw [← hv, BitVec.and_allOnes]

/-- A row that fixes the group fits words of that group only. -/
theorem group_of_fits {m : String} {g : Nibble} {w : Word}
    (h : OpRow.fits ⟨m, encodeA g 0#12, 0xF000#16⟩ w = true) : w.group = g := by
  have hv : encodeA w.group 0#12 = encodeA g 0#12 := (and_F000 w).symm.trans (OpRow.fits_iff.1 h)
  simpa using congrArg Word.group hv

/-- A word that fits a row of format FA is the encoding of the row's group and its own `NNN` (R93). -/
theorem encodeA_of_fits {m : String} {g : Nibble} {w : Word}
    (h : OpRow.fits ⟨m, encodeA g 0#12, 0xF000#16⟩ w = true) : encodeA g w.nnn = w :=
  Word.encodeA_of_group (group_of_fits h)

/-- A word that fits a row of format FXK is the encoding of the row's group and its own `X` and `NN` (R93). -/
theorem encodeXK_of_fits {m : String} {g : Nibble} {w : Word}
    (h : OpRow.fits ⟨m, encodeA g 0#12, 0xF000#16⟩ w = true) : encodeXK g w.x w.nn = w :=
  Word.encodeXK_of_fields (group_of_fits h) rfl

/-- A word that fits a row of format FXYN is the encoding of the row's group and its own `X`, `Y` and `N` (R93). -/
theorem encodeXYN_of_fits {m : String} {g : Nibble} {w : Word}
    (h : OpRow.fits ⟨m, encodeA g 0#12, 0xF000#16⟩ w = true) : encodeXY g w.x w.y w.n = w :=
  Word.encodeXY_of_fields (group_of_fits h) rfl

/-- A word that fits a row of format FXY is the encoding of the row's group and `N` and its own `X` and `Y` (R93). -/
theorem encodeXY_of_fits {m : String} {g n : Nibble} {w : Word}
    (h : OpRow.fits ⟨m, encodeXY g 0#4 0#4 n, 0xF00F#16⟩ w = true) : encodeXY g w.x w.y n = w := by
  have hv : encodeXY w.group 0#4 0#4 w.n = encodeXY g 0#4 0#4 n := (and_F00F w).symm.trans (OpRow.fits_iff.1 h)
  exact Word.encodeXY_of_fields (by simpa using congrArg Word.group hv) (by simpa using congrArg Word.n hv)

/-- A word that fits a row of format FX is the encoding of the row's group and `NN` and its own `X` (R93). -/
theorem encodeX_of_fits {m : String} {g : Nibble} {k : Byte} {w : Word}
    (h : OpRow.fits ⟨m, encodeXK g 0#4 k, 0xF0FF#16⟩ w = true) : encodeXK g w.x k = w := by
  have hv : encodeXK w.group 0#4 w.nn = encodeXK g 0#4 k := (and_F0FF w).symm.trans (OpRow.fits_iff.1 h)
  exact Word.encodeXK_of_fields (by simpa using congrArg Word.group hv) (by simpa using congrArg Word.nn hv)

/-- A word that fits an instruction's row is the encoding of an instruction of that row, with the operands that stand in
the word (R94, R95). -/
theorem exists_encode_of_fits {w : Word} (j : Instr) (h : j.row.fits w = true) : ∃ i, encode i = w ∧ i.row = j.row := by
  cases j with
  | cls => exact ⟨.cls, eq_of_fits h, rfl⟩
  | ret => exact ⟨.ret, eq_of_fits h, rfl⟩
  | jmp => exact ⟨.jmp w.nnn, encodeA_of_fits h, rfl⟩
  | call => exact ⟨.call w.nnn, encodeA_of_fits h, rfl⟩
  | seq => exact ⟨.seq w.x w.nn, encodeXK_of_fits h, rfl⟩
  | sne => exact ⟨.sne w.x w.nn, encodeXK_of_fits h, rfl⟩
  | sre => exact ⟨.sre w.x w.y, encodeXY_of_fits h, rfl⟩
  | seti => exact ⟨.seti w.x w.nn, encodeXK_of_fits h, rfl⟩
  | addi => exact ⟨.addi w.x w.nn, encodeXK_of_fits h, rfl⟩
  | set => exact ⟨.set w.x w.y, encodeXY_of_fits h, rfl⟩
  | or => exact ⟨.or w.x w.y, encodeXY_of_fits h, rfl⟩
  | and => exact ⟨.and w.x w.y, encodeXY_of_fits h, rfl⟩
  | xor => exact ⟨.xor w.x w.y, encodeXY_of_fits h, rfl⟩
  | add => exact ⟨.add w.x w.y, encodeXY_of_fits h, rfl⟩
  | sub => exact ⟨.sub w.x w.y, encodeXY_of_fits h, rfl⟩
  | shr => exact ⟨.shr w.x w.y, encodeXY_of_fits h, rfl⟩
  | nsub => exact ⟨.nsub w.x w.y, encodeXY_of_fits h, rfl⟩
  | shl => exact ⟨.shl w.x w.y, encodeXY_of_fits h, rfl⟩
  | srne => exact ⟨.srne w.x w.y, encodeXY_of_fits h, rfl⟩
  | setidx => exact ⟨.setidx w.nnn, encodeA_of_fits h, rfl⟩
  | jmpo => exact ⟨.jmpo w.nnn, encodeA_of_fits h, rfl⟩
  | rand => exact ⟨.rand w.x w.nn, encodeXK_of_fits h, rfl⟩
  | draw => exact ⟨.draw w.x w.y w.n, encodeXYN_of_fits h, rfl⟩
  | ske => exact ⟨.ske w.x, encodeX_of_fits h, rfl⟩
  | skn => exact ⟨.skn w.x, encodeX_of_fits h, rfl⟩
  | gdt => exact ⟨.gdt w.x, encodeX_of_fits h, rfl⟩
  | gtk => exact ⟨.gtk w.x, encodeX_of_fits h, rfl⟩
  | sdt => exact ⟨.sdt w.x, encodeX_of_fits h, rfl⟩
  | sst => exact ⟨.sst w.x, encodeX_of_fits h, rfl⟩
  | addidx => exact ⟨.addidx w.x, encodeX_of_fits h, rfl⟩
  | font => exact ⟨.font w.x, encodeX_of_fits h, rfl⟩
  | bcd => exact ⟨.bcd w.x, encodeX_of_fits h, rfl⟩
  | stm => exact ⟨.stm w.x, encodeX_of_fits h, rfl⟩
  | ldm => exact ⟨.ldm w.x, encodeX_of_fits h, rfl⟩

/-- A word that fits a row of the table decodes to an instruction of that row (R94, R95). -/
theorem decode_of_fits {w : Word} {r : OpRow} (hr : r ∈ opcodeTable) (h : r.fits w = true) :
    ∃ i, decode w = .instr i ∧ i.row = r := by
  obtain ⟨j, -, rfl⟩ := List.mem_map.1 hr
  obtain ⟨i, rfl, hrow⟩ := exists_encode_of_fits j h
  exact ⟨i, decode_encode i, hrow⟩

/-- Settles O17: a word that decodes is the encoding of an instruction, which fits that instruction's row; a word that
fits a row decodes to an instruction of that row. -/
theorem decodesIffInTable : Obligations.DecodesIffInTable := by
  intro w
  refine ⟨⟨?_, fun hwf => ?_⟩, fun i hi r hr hfits => ?_⟩
  · rintro ⟨i, hi⟩
    obtain ⟨hfits, hrow⟩ := tableRow_statement i
    rw [encode_of_decode hi] at hfits
    exact List.any_eq_true.2 ⟨i.row, hrow, hfits⟩
  · obtain ⟨r, hr, hfits⟩ := List.any_eq_true.1 hwf
    obtain ⟨i, hi, -⟩ := decode_of_fits hr hfits
    exact ⟨i, hi⟩
  · obtain ⟨i', hi', rfl⟩ := decode_of_fits hr hfits
    rw [Decoded.instr.inj (hi.symm.trans hi')]

/-! ### The Invalid encodings -/

/-- One test of the decoder: what fails it may still be Invalid by the tests after it. -/
theorem ite_eq_invalid_iff {c : Prop} [Decidable c] {i : Instr} {d : Decoded} {w : Word} :
    (if c then .instr i else d) = .invalid w ↔ ¬ c ∧ d = .invalid w := by
  by_cases h : c <;> simp [h]

/-- The group of a word by its number (R91). -/
theorem Word.group_eq_iff {w : Word} {g : Nibble} : w.group = g ↔ w.toNat / 4096 = g.toNat := by
  have hw := w.isLt
  rw [← BitVec.toNat_inj, Word.group, Word.toNat_field]
  omega

/-- `N` of a word by its number (R91). -/
theorem Word.n_eq_iff {w : Word} {n : Nibble} : w.n = n ↔ w.toNat % 16 = n.toNat := by
  have hfield : w.n.toNat = w.toNat % 16 := (Word.toNat_field w 0 4).trans (by omega)
  rw [← BitVec.toNat_inj, hfield]

/-- `NN` of a word by its number (R91). -/
theorem Word.nn_eq_iff {w : Word} {k : Byte} : w.nn = k ↔ w.toNat % 256 = k.toNat := by
  have hfield : w.nn.toNat = w.toNat % 256 := (Word.toNat_field w 0 8).trans (by omega)
  rw [← BitVec.toNat_inj, hfield]

/-- Group 0x0 accepts two words (R97). -/
theorem decodeGroup0_eq_invalid_iff {w : Word} :
    decodeGroup0 w = .invalid w ↔ w ≠ 0x00E0#16 ∧ w ≠ 0x00EE#16 := by
  simp [decodeGroup0, ite_eq_invalid_iff]

/-- Group 0x8 refuses the `N` that R97 lists: those that are none of its nine operations'. -/
theorem decodeGroup8_eq_invalid_iff {w : Word} :
    decodeGroup8 w = .invalid w ↔ w.toNat % 16 ∈ [0x8, 0x9, 0xA, 0xB, 0xC, 0xD, 0xF] := by
  simp only [decodeGroup8, ite_eq_invalid_iff, Word.n_eq_iff, BitVec.reduceToNat, List.mem_cons, List.not_mem_nil,
    and_true, or_false]
  omega

/-- Group 0xE accepts two `NN` (R97). -/
theorem decodeGroupE_eq_invalid_iff {w : Word} :
    decodeGroupE w = .invalid w ↔ w.toNat % 256 ∉ [0x9E, 0xA1] := by
  simp [decodeGroupE, ite_eq_invalid_iff, Word.nn_eq_iff]

/-- Group 0xF accepts nine `NN` (R97). -/
theorem decodeGroupF_eq_invalid_iff {w : Word} :
    decodeGroupF w = .invalid w ↔ w.toNat % 256 ∉ [0x07, 0x0A, 0x15, 0x18, 0x1E, 0x29, 0x33, 0x55, 0x65] := by
  simp [decodeGroupF, ite_eq_invalid_iff, Word.nn_eq_iff]

/-- Settles O18: group by group. The groups with a sub-opcode refuse what the lemmas above say; 0x5 and 0x9 are one test
each; the others accept every word. -/
theorem invalidWordsListed : Obligations.InvalidWordsListed := by
  intro w
  rcases w.group_cases with hg | hg | hg | hg | hg | hg | hg | hg | hg | hg | hg | hg | hg | hg | hg | hg <;>
    have hq := Word.group_eq_iff.1 hg
  · simp [decode_group0 hg, hq, decodeGroup0_eq_invalid_iff]
  · simp [decode_group1 hg, hq]
  · simp [decode_group2 hg, hq]
  · simp [decode_group3 hg, hq]
  · simp [decode_group4 hg, hq]
  · simp [decode_group5 hg, hq, Word.n_eq_iff]
  · simp [decode_group6 hg, hq]
  · simp [decode_group7 hg, hq]
  · simp [decode_group8 hg, hq, decodeGroup8_eq_invalid_iff]
  · simp [decode_group9 hg, hq, Word.n_eq_iff]
  · simp [decode_groupA hg, hq]
  · simp [decode_groupB hg, hq]
  · simp [decode_groupC hg, hq]
  · simp [decode_groupD hg, hq]
  · simp [decode_groupE hg, hq, decodeGroupE_eq_invalid_iff]
  · simp [decode_groupF hg, hq, decodeGroupF_eq_invalid_iff]

/-- Settles O19: closed words, run through the decoder. -/
theorem knownWordsDecode : Obligations.KnownWordsDecode := by
  unfold Obligations.KnownWordsDecode
  decide

end Sys2Proof

namespace Sys2Proof.Machine
open Host

/-! ### The fetch -/

/-- At the last address no word can be fetched (30_encoding.md R111, 60_exceptions.md R234). -/
theorem State.fetch_of_eq_FFF {s : State} (h : s.pc.toNat = 0xFFF) :
    s.fetch = .fatal (s.raise .fetchOutOfRange s.pc none) := by
  rcases s.fetch_cases with ⟨-, hfetch⟩ | ⟨hpc, -⟩ | ⟨hpc, -⟩
  · exact hfetch
  · rw [hpc] at h; exact absurd h (by decide)
  · omega

/-- At the last address but one the word is fetched, and the advance of pc would pass the top (R111). -/
theorem State.fetch_of_eq_FFE {s : State} (h : s.pc.toNat = 0xFFE) :
    s.fetch = .fatal (s.raise .pcOverflow s.pc (some (s.mem.wordAt s.pc))) := by
  rcases s.fetch_cases with ⟨hpc, -⟩ | ⟨-, hfetch⟩ | ⟨hpc, -⟩
  · rw [hpc] at h; exact absurd h (by decide)
  · exact hfetch
  · omega

/-- The word at an address, as a number: big-endian (R66). -/
theorem Memory.wordAt_eq (m : Memory) (a : Addr) :
    m.wordAt a = BitVec.ofNat 16 ((m.read a.toNat).toNat * 256 + (m.read (a.toNat + 1)).toNat) := rfl

/-- Settles O8: the three cases of the fetch, with the word and the advanced pc written out as numbers. -/
theorem fetchRule : Obligations.FetchRule := by
  intro s
  refine ⟨State.fetch_of_eq_FFF, fun h => ?_, fun h => ?_⟩
  · rw [State.fetch_of_eq_FFE h, Memory.wordAt_eq, h]
  · have hnext : s.pc + 2#12 = BitVec.ofNat 12 (s.pc.toNat + 2) := by simp [BitVec.ofNat_add]
    rw [State.fetch_of_le (by omega), Memory.wordAt_eq, hnext]

/-! ### When the block steps -/

/-- Settles O11: `step` looks at the status first. -/
theorem haltedHasNoStep : Obligations.HaltedHasNoStep := by
  intro s c p w h
  rw [step, h]

/-- A decoded word always has a next state: an instruction by its effect, the Invalid word by its fatal error (R113). -/
theorem execDecoded_next (d : Decoded) (s : State) : ∃ t, execDecoded d s = .next t := by
  cases d with
  | instr i =>
    obtain ⟨t, ht, -⟩ := exec_effect i s
    exact ⟨t, ht⟩
  | invalid => exact ⟨_, rfl⟩

/-- Settles O12: each case of `step_cases` has a next state, the execute phase by `execDecoded_next`. -/
theorem runningAlwaysSteps : Obligations.RunningAlwaysSteps := by
  intro s hrun
  rcases step_cases hrun with ⟨-, hstep⟩ | ⟨-, -, hstep⟩ | ⟨-, -, hstep⟩ | ⟨-, -, hstep⟩
  · exact ⟨_, hstep⟩
  · exact ⟨_, hstep⟩
  · exact ⟨_, hstep⟩
  · obtain ⟨t, ht⟩ := execDecoded_next (decode (s.mem.wordAt s.pc)) (s.setPc (s.pc + 2#12))
    exact ⟨t.refreshPorts, by rw [hstep, ht, afterCycle]⟩

end Sys2Proof.Machine
end

section
/-!
PROOFS. The control flow statements: the jumps (JmpReplacesPc, JmpoAddsV0), the call stack (CallPushesOrOverflows,
RetPopsOrUnderflows, CallThenRet) and the compare skips (CompareSkips). A stack entry gets its reading rules
(`State.read_push_low`, `State.read_push_high`, `State.toNat_top`, `State.top_push`); every skip is an instance of one
lemma (`skipRule_of_exec`).
-/
namespace Sys2Proof.Machine

/-! ### Frames of the control transfers -/

/-- A replacement of pc after a move adds pc to what the move may touch (10_state.md R36). -/
theorem Frame.setPc {w : Touched} {s t : State} (h : Frame w s t) (a : Addr) :
    Frame { w with pc := true } s (t.setPc a) := by
  obtain ⟨reg, -, i, sp, dt, st, display, status, ports, mem, params⟩ := h
  exact ⟨reg, nofun, i, sp, dt, st, display, status, ports, mem, params⟩

/-- A new stack depth after a move adds SP to what the move may touch (10_state.md R40). -/
theorem Frame.setSp {w : Touched} {s t : State} (h : Frame w s t) (n : Nat) :
    Frame { w with sp := true } s (t.setSp n) := by
  obtain ⟨reg, pc, i, -, dt, st, display, status, ports, mem, params⟩ := h
  exact ⟨reg, pc, i, nofun, dt, st, display, status, ports, mem, params⟩

/-- A replacement of pc touches pc only (R36). -/
theorem State.frame_setPc (s : State) (a : Addr) : Frame { pc := true } s (s.setPc a) := (Frame.refl {} s).setPc a

/-- The entry into the halted state touches status only (60_exceptions.md R231). -/
theorem State.frame_raise (s : State) (c : Cause) (p : Addr) (w : Option Word) :
    Frame { status := true } s (s.raise c p w) := by
  simp [Frame]

/-- Dropping the top entry touches SP only (20_memory.md R72). -/
theorem State.frame_dropTop (s : State) : Frame { sp := true } s s.dropTop := (Frame.refl {} s).setSp (s.sp - 1)

/-! ### Jumps -/

/-- Settles O33: the meaning of JMP is the replacement of pc. -/
theorem jmpReplacesPc : Obligations.JmpReplacesPc :=
  fun nnn s => ⟨s.setPc nnn, rfl, rfl, s.frame_setPc nnn⟩

/-- The sum of an address and a register value wraps past 0xFFF (40_control_flow.md R128). -/
theorem toNat_addrPlus (a : Addr) (b : Byte) : (addrPlus a b).toNat = (a.toNat + b.toNat) % 4096 :=
  BitVec.toNat_ofNat _ 12

/-- Settles O34: the new pc is the wrapped sum with V[0]. -/
theorem jmpoAddsV0 : Obligations.JmpoAddsV0 :=
  fun nnn s => ⟨s.setPc (addrPlus nnn (s.reg 0x0#4)), rfl, toNat_addrPlus nnn _, s.frame_setPc _⟩

/-! ### Stack entries -/

/-- Both bytes of a stack entry lie in Memory (20_memory.md R70). -/
theorem State.clampLen_entryAddr (s : State) {k : Nat} (hk : k < 32) : clampLen (s.entryAddr k) 2 = 2 := by
  have hbase := s.params.stackBase.isLt
  have haddr := s.toNat_entryAddr hk
  simp only [clampLen, memSize]
  omega

/-- The addresses of a stack entry's two bytes (R70). -/
theorem State.bytesAt_entryAddr (s : State) {k : Nat} (hk : k < 32) :
    bytesAt (s.entryAddr k) 2 = [(s.entryAddr k).toNat, (s.entryAddr k).toNat + 1] := by
  rw [bytesAt, s.clampLen_entryAddr hk]
  rfl

/-- A stack entry as a number: low byte first, masked to 12 bits (20_memory.md R67, R72). -/
theorem toNat_entryValue (lo hi : Byte) : (entryValue lo hi).toNat = (lo.toNat + 256 * hi.toNat) % 4096 := by
  have hor : lo.toNat ||| hi.toNat <<< 8 = lo.toNat + 256 * hi.toNat := by
    rw [Nat.shiftLeft_eq, Nat.or_comm, Nat.mul_comm, ← Nat.two_pow_add_eq_or_of_lt lo.isLt, Nat.add_comm]
  rw [entryValue, hor]
  exact BitVec.toNat_ofNat _ 12

/-- The address in the top entry as a number, from its two bytes (R72). -/
theorem State.toNat_top {s : State} (hs : s.sp - 1 < 32) :
    s.top.toNat = ((s.mem.read (s.params.stackBase.val + 2 * (s.sp - 1))).toNat +
      256 * (s.mem.read (s.params.stackBase.val + 2 * (s.sp - 1) + 1)).toNat) % 4096 := by
  rw [State.top, toNat_entryValue, s.toNat_entryAddr hs]

section Push

variable (s : State) (a : Addr)

/-- A push with room writes no byte outside its entry (20_memory.md R71). -/
theorem State.frame_push (hs : s.sp < 32) :
    Frame { sp := true, bytes := [(s.entryAddr s.sp).toNat, (s.entryAddr s.sp).toNat + 1] } s (s.push a) := by
  rw [← s.bytesAt_entryAddr hs]
  exact (s.frame_memWrite (s.entryAddr s.sp) (entryBytes a)).setSp (s.sp + 1)

/-- The first byte of a pushed entry is the address's low byte (R67, R71). -/
theorem State.read_push_low (hm : s.mem.wf = true) (hs : s.sp < 32) :
    (s.push a).mem.read (s.entryAddr s.sp).toNat = a.setWidth 8 :=
  Memory.read_memWrite_inside (s.entryAddr s.sp) (entryBytes a) hm (j := 0)
    (Nat.lt_of_lt_of_eq Nat.zero_lt_two (s.clampLen_entryAddr hs).symm)

/-- The second byte of a pushed entry is the address's high bits (R67, R71). -/
theorem State.read_push_high (hm : s.mem.wf = true) (hs : s.sp < 32) :
    (s.push a).mem.read ((s.entryAddr s.sp).toNat + 1) = (a.extractLsb' 8 4).setWidth 8 :=
  Memory.read_memWrite_inside (s.entryAddr s.sp) (entryBytes a) hm (j := 1)
    (Nat.lt_of_lt_of_eq Nat.one_lt_two (s.clampLen_entryAddr hs).symm)

/-- The top entry after a push is the pushed address (R71, R72). -/
theorem State.top_push (hm : s.mem.wf = true) (hs : s.sp < 32) : (s.push a).top = a := by
  have htop : (s.push a).top = entryValue ((s.push a).mem.read (s.entryAddr s.sp).toNat)
      ((s.push a).mem.read ((s.entryAddr s.sp).toNat + 1)) := rfl
  rw [htop, s.read_push_low a hm hs, s.read_push_high a hm hs, entryValue_entryBytes]

end Push

/-! ### CALL and RET -/

/-- Settles O35: with room the push stores pc's two bytes in the entry; at SP = 32 CALL raises. -/
theorem callPushesOrOverflows : Obligations.CallPushesOrOverflows := by
  refine fun nnn s => ⟨fun hm hs => ?_, fun hfull => ?_⟩
  · refine ⟨_, exec_call_room nnn (Nat.ne_of_lt hs), rfl, rfl, s.toNat_entryAddr hs, ?_, ?_,
      (s.frame_push s.pc hs).setPc nnn⟩
    · rw [State.setPc_mem, s.read_push_low s.pc hm hs, BitVec.toNat_setWidth]
    · have hpc := s.pc.isLt
      rw [State.setPc_mem, s.read_push_high s.pc hm hs, BitVec.toNat_setWidth, BitVec.extractLsb'_toNat,
        Nat.shiftRight_eq_div_pow]
      omega
  · exact ⟨_, exec_call_full nnn hfull, rfl, s.frame_raise _ _ _⟩

/-- Settles O36: RET of a nonempty stack goes to the address in the top entry; at SP = 0 it raises. -/
theorem retPopsOrUnderflows : Obligations.RetPopsOrUnderflows := by
  refine fun s => ⟨fun hne hle => ?_, fun hempty => ?_⟩
  · exact ⟨_, exec_ret_nonempty hne, Nat.sub_add_cancel (Nat.pos_of_ne_zero hne), State.toNat_top (by omega),
      s.frame_dropTop.setPc s.top⟩
  · exact ⟨_, exec_ret_empty hempty, rfl, s.frame_raise _ _ _⟩

/-- Settles O37: the entry RET finds on top is the pc that CALL pushed, so RET leaves the state CALL found, but for the
two bytes of the entry. -/
theorem callThenRet : Obligations.CallThenRet := by
  intro nnn s hm hs
  have hcall := exec_call_room nnn (Nat.ne_of_lt hs)
  have hret : exec .ret ((s.push s.pc).setPc nnn) =
      .next (s.setMem (s.mem.memWrite (s.entryAddr s.sp) (entryBytes s.pc))) := by
    rw [exec_ret_nonempty (Nat.succ_ne_zero s.sp)]
    have htop : ((s.push s.pc).setPc nnn).top = s.pc := s.top_push s.pc hm hs
    rw [htop]
    rfl
  refine ⟨_, _, hcall, hret, rfl, rfl, ?_⟩
  rw [← s.bytesAt_entryAddr hs]
  exact s.frame_memWrite _ _

/-! ### Skips -/

/-- An instruction that skips when a Boolean says so obeys the rule of skips for the condition the Boolean decides
(40_control_flow.md R120). -/
theorem skipRule_of_exec {i : Instr} {s : State} {b : Bool} {c : Prop} (hexec : exec i s = .next (s.skipIf b i))
    (hb : b = true ↔ c) : SkipRule c i s := by
  obtain rfl : (b = true) = c := propext hb
  rcases s.skipIf_cases b i with ⟨hno, hskip⟩ | ⟨hyes, hpc, hskip⟩ | ⟨hyes, hpc, hskip⟩ <;> rw [hskip] at hexec
  · have hfalse : b ≠ true := Bool.eq_false_iff.1 hno
    exact ⟨fun _ => ⟨s, hexec, fun hc => absurd hc hfalse, fun _ => rfl, Frame.refl _ s⟩, fun hc => absurd hc hfalse⟩
  · exact ⟨fun _ => ⟨_, hexec, fun _ => toNat_add_two hpc, absurd hyes, s.frame_setPc _⟩,
      fun _ htop => absurd htop (Nat.not_lt.2 hpc)⟩
  · exact ⟨fun hle => absurd hpc (Nat.not_lt.2 (hle hyes)), fun _ _ => ⟨_, hexec, rfl, s.frame_raise _ _ _⟩⟩

/-- Settles O38: each of the four skips by the comparison it makes. -/
theorem compareSkips : Obligations.CompareSkips :=
  fun _ => ⟨fun _ _ => skipRule_of_exec rfl beq_iff_eq, fun _ _ => skipRule_of_exec rfl bne_iff_ne,
    fun _ _ => skipRule_of_exec rfl beq_iff_eq, fun _ _ => skipRule_of_exec rfl bne_iff_ne⟩

end Sys2Proof.Machine
end

section
/-!
PROOFS. The register and arithmetic statements: immediate and copy (SetiLoads, SetCopies), sums and differences
(AddiNoFlag, AddCarry, SubNsubNoBorrow), bitwise operations (LogicOps, RandMasks) and shifts (ShrShiftsY, ShlShiftsY).
Every meaning is one of two register writes, a plain one (`State.setReg`) and a flagged one (`State.setFlagged`): each
write gets its reading rules and its frame, each result and flag its value as a number.
-/
namespace Sys2Proof.Machine

/-! ### The two register writes -/

/-- A register write after a move adds the register to what the move may touch (10_state.md R32). -/
theorem Frame.setReg {w : Touched} {s t : State} (h : Frame w s t) (x : Nibble) (b : Byte) :
    Frame { w with regs := x :: w.regs } s (t.setReg x b) := by
  obtain ⟨reg, pc, i, sp, dt, st, display, status, ports, mem, params⟩ := h
  refine ⟨fun z hz => ?_, pc, i, sp, dt, st, display, status, ports, mem, params⟩
  rw [State.setReg_reg, if_neg (List.ne_of_not_mem_cons hz)]
  exact reg z (List.not_mem_of_not_mem_cons hz)

/-- A plain write touches its register only (R32). -/
theorem State.frame_setReg (s : State) (x : Nibble) (b : Byte) : Frame { regs := [x] } s (s.setReg x b) :=
  (Frame.refl {} s).setReg x b

/-- A flagged write touches its destination and VF only (R32, R33). -/
theorem State.frame_setFlagged (s : State) (x : Nibble) (f r : Byte) :
    Frame { regs := [x, 0xF#4] } s (s.setFlagged x f r) :=
  ((Frame.refl {} s).setReg flagReg f).setReg x r

/-- The written register holds the written byte (R30). -/
theorem State.setReg_reg_same (s : State) (x : Nibble) (b : Byte) : (s.setReg x b).reg x = b := by
  rw [State.setReg_reg, if_pos rfl]

/-- The destination of a flagged write holds the result, VF as a destination too (41_register_alu.md R152). -/
theorem State.setFlagged_reg_dest (s : State) (x : Nibble) (f r : Byte) : (s.setFlagged x f r).reg x = r := by
  rw [State.setFlagged_reg, if_pos rfl]

/-- VF holds the flag after a flagged write with another destination (R152). -/
theorem State.setFlagged_reg_VF (s : State) {x : Nibble} (hx : x ≠ 0xF#4) (f r : Byte) :
    (s.setFlagged x f r).reg 0xF#4 = f := by
  rw [State.setFlagged_reg, if_neg hx.symm]
  exact if_pos rfl

/-! ### Plain results -/

/-- Settles O24: SETI is the plain write of the immediate. -/
theorem setiLoads : Obligations.SetiLoads :=
  fun x nn s => ⟨s.setReg x nn, rfl, s.setReg_reg_same x nn, s.frame_setReg x nn⟩

/-- Settles O25: SET is the plain write of V[Y]. -/
theorem setCopies : Obligations.SetCopies :=
  fun x y s => ⟨s.setReg x (s.reg y), rfl, s.setReg_reg_same x _, s.frame_setReg x _⟩

/-- The sum is exact modulo 256 (41_register_alu.md R141, R146). -/
theorem toNat_sumByte (a b : Byte) : (sumByte a b).toNat = (a.toNat + b.toNat) % 256 :=
  BitVec.toNat_ofNat _ 8

/-- Settles O26: ADDI is the plain write of the sum. -/
theorem addiNoFlag : Obligations.AddiNoFlag := by
  intro x nn s
  refine ⟨s.setReg x (sumByte (s.reg x) nn), rfl, ?_, s.frame_setReg x _⟩
  rw [State.setReg_reg_same, toNat_sumByte]

/-- Settles O27: OR, AND and XOR are plain writes of the bitwise operation. -/
theorem logicOps : Obligations.LogicOps := by
  intro x y s
  refine ⟨⟨s.setReg x (s.reg x ||| s.reg y), rfl, fun k => ?_, s.frame_setReg x _⟩,
    ⟨s.setReg x (s.reg x &&& s.reg y), rfl, fun k => ?_, s.frame_setReg x _⟩,
    ⟨s.setReg x (s.reg x ^^^ s.reg y), rfl, fun k => ?_, s.frame_setReg x _⟩⟩
  · rw [State.setReg_reg_same, BitVec.getLsbD_or]
  · rw [State.setReg_reg_same, BitVec.getLsbD_and]
  · rw [State.setReg_reg_same, BitVec.getLsbD_xor]

/-- Settles O32: RAND is the plain write of the port's byte under the mask. -/
theorem randMasks : Obligations.RandMasks := by
  intro x nn s
  refine ⟨s.setReg x (s.randPort &&& nn), rfl, fun k => ?_, s.frame_setReg x _⟩
  rw [State.setReg_reg_same, BitVec.getLsbD_and]

/-! ### Sums and differences with a flag -/

/-- The flag of a condition. -/
theorem flagByte_decide (p : Prop) [Decidable p] : flagByte (decide p) = if p then 1#8 else 0#8 := by
  by_cases h : p <;> simp [flagByte, h]

/-- Settles O28: ADD is the flagged write of the sum with its carry. -/
theorem addCarry : Obligations.AddCarry := by
  intro x y s
  refine ⟨_, rfl, ?_, fun hx => ?_, s.frame_setFlagged x _ _⟩
  · rw [State.setFlagged_reg_dest, toNat_sumByte]
  · rw [State.setFlagged_reg_VF s hx, carryFlag, flagByte_decide]

/-- The difference is exact modulo 256 (R147, R149). -/
theorem toNat_diffByte (m t : Byte) : (diffByte m t).toNat = (256 + m.toNat - t.toNat) % 256 :=
  BitVec.toNat_ofNat _ 8

/-- Bit 8 of the wide difference is set iff no borrow occurred (R147, R149). -/
theorem testBit_diffWide (m t : Byte) : (diffWide m t).testBit 8 = decide (t.toNat ≤ m.toNat) := by
  have hm := m.isLt
  have ht := t.isLt
  rw [Nat.testBit_eq_decide_div_mod_eq, diffWide]
  exact decide_eq_decide.2 (by omega)

/-- A flagged write of a difference with its no-borrow flag, whichever operand is the minuend (R147, R149). -/
theorem State.setFlagged_difference (s : State) (x : Nibble) (m t : Byte) :
    ((s.setFlagged x (noBorrowFlag m t) (diffByte m t)).reg x).toNat = (256 + m.toNat - t.toNat) % 256 ∧
    (x ≠ 0xF#4 → (s.setFlagged x (noBorrowFlag m t) (diffByte m t)).reg 0xF#4 =
      if t.toNat ≤ m.toNat then 1#8 else 0#8) ∧
    Frame { regs := [x, 0xF#4] } s (s.setFlagged x (noBorrowFlag m t) (diffByte m t)) := by
  refine ⟨?_, fun hx => ?_, s.frame_setFlagged x _ _⟩
  · rw [State.setFlagged_reg_dest, toNat_diffByte]
  · rw [State.setFlagged_reg_VF s hx, noBorrowFlag, testBit_diffWide, flagByte_decide]

/-- Settles O29: SUB and NSUB are the flagged write of a difference, with minuend V[X] and V[Y]. -/
theorem subNsubNoBorrow : Obligations.SubNsubNoBorrow :=
  ⟨fun x y s => ⟨_, rfl, s.setFlagged_difference x (s.reg x) (s.reg y)⟩,
    fun x y s => ⟨_, rfl, s.setFlagged_difference x (s.reg y) (s.reg x)⟩⟩

/-! ### Shifts -/

/-- The flag of a bit of a value, as a number (10_state.md R33). -/
theorem toNat_flagByte_getLsbD (v : Byte) (k : Nat) : (flagByte (v.getLsbD k)).toNat = v.toNat / 2 ^ k % 2 := by
  have hbit : v.getLsbD k = decide (v.toNat / 2 ^ k % 2 = 1) := Nat.testBit_eq_decide_div_mod_eq
  rw [hbit, flagByte_decide]
  rcases Nat.mod_two_eq_zero_or_one (v.toNat / 2 ^ k) with h | h <;> rw [h] <;> rfl

/-- A right shift halves (41_register_alu.md R148). -/
theorem toNat_shrByte (v : Byte) : (shrByte v).toNat = v.toNat / 2 := by
  rw [shrByte, BitVec.toNat_ushiftRight, Nat.shiftRight_eq_div_pow, Nat.pow_one]

/-- A left shift doubles modulo 256 (R150). -/
theorem toNat_shlByte (v : Byte) : (shlByte v).toNat = 2 * v.toNat % 256 := by
  rw [shlByte, BitVec.toNat_shiftLeft, Nat.shiftLeft_eq, Nat.pow_one, Nat.mul_comm]

/-- The bit SHR shifts out is the remainder of the halving (R148). -/
theorem toNat_shrFlag (v : Byte) : (shrFlag v).toNat = v.toNat % 2 := by
  rw [shrFlag, toNat_flagByte_getLsbD, Nat.pow_zero, Nat.div_one]

/-- Under `SHL_FLAG = bit` SHL's flag is bit 7 (R150, 00_scope.md R13). -/
theorem toNat_shlFlagByte_bit (v : Byte) : (shlFlagByte .bit v).toNat = v.toNat / 128 := by
  have hv := v.isLt
  rw [shlFlagByte, toNat_flagByte_getLsbD]
  omega

/-- Under `SHL_FLAG = masked` SHL's flag is bit 7 in its place (R150, R13). -/
theorem toNat_shlFlagByte_masked (v : Byte) : (shlFlagByte .masked v).toNat = 128 * (v.toNat / 128) := by
  have hv := v.isLt
  have hrun : v.toNat &&& 128 = v.toNat / 2 ^ 7 % 2 ^ 1 * 2 ^ 7 := nat_and_run 1 7 v.toNat
  calc (shlFlagByte .masked v).toNat
      = v.toNat &&& 128 := BitVec.toNat_and v 0x80#8
    _ = 128 * (v.toNat / 128) := by omega

/-- Settles O30: SHR is the flagged write of V[Y] shifted right. -/
theorem shrShiftsY : Obligations.ShrShiftsY := by
  intro x y s
  refine ⟨_, rfl, ?_, fun hx => ?_, s.frame_setFlagged x _ _⟩
  · rw [State.setFlagged_reg_dest, toNat_shrByte]
  · rw [State.setFlagged_reg_VF s hx, toNat_shrFlag]

/-- Settles O31: SHL is the flagged write of V[Y] shifted left; the flag by the two values of `SHL_FLAG`. -/
theorem shlShiftsY : Obligations.ShlShiftsY := by
  intro x y s
  refine ⟨_, rfl, ?_, fun hx => ?_, s.frame_setFlagged x _ _⟩
  · rw [State.setFlagged_reg_dest, toNat_shlByte]
  · rw [State.setFlagged_reg_VF s hx]
    cases s.params.shlFlag with
    | bit => exact toNat_shlFlagByte_bit (s.reg y)
    | masked => exact toNat_shlFlagByte_masked (s.reg y)

end Sys2Proof.Machine
end

section
/-!
PROOFS. The index and memory statements: I (IndexArithmetic, FontPointsAtGlyph), the two stores (BcdDigits, StmStores),
the load (LdmLoads) and the load of what was stored (StmLdmRoundTrip). The stores are one clamped write each, read back
by `Memory.read_memWrite_of_getElem?`; a register after LDM is read by one rule per case of 42_index_memory.md R175.
-/
namespace Sys2Proof.Machine

/-! ### The index register -/

/-- A replacement of I touches I only (10_state.md R34). -/
theorem State.frame_setI (s : State) (a : Addr) : Frame { i := true } s (s.setI a) := by
  simp [Frame]

/-- Settles O40: SETIDX replaces I by the immediate, ADDIDX by the wrapped sum. -/
theorem indexArithmetic : Obligations.IndexArithmetic :=
  ⟨fun nnn s => ⟨s.setI nnn, rfl, rfl, s.frame_setI nnn⟩,
    fun x s => ⟨s.setI (addrPlus s.i (s.reg x)), rfl, toNat_addrPlus s.i (s.reg x), s.frame_setI _⟩⟩

/-- The glyph of a byte's low nibble; its address needs no wrap (42_index_memory.md R172). -/
theorem toNat_glyphAddr (b : Byte) : (glyphAddr b).toNat = 0x50 + 5 * (b.toNat % 16) := by
  have hlow : (b &&& 0x0F#8).toNat = b.toNat % 16 :=
    (BitVec.toNat_and b 0x0F#8).trans (Nat.and_two_pow_sub_one_eq_mod b.toNat 4)
  have hwrap : (glyphAddr b).toNat = (0x50 + 5 * (b &&& 0x0F#8).toNat) % 4096 := BitVec.toNat_ofNat _ 12
  omega

/-- Settles O41: FONT replaces I by the glyph's address. -/
theorem fontPointsAtGlyph : Obligations.FontPointsAtGlyph :=
  fun x s => ⟨s.setI (glyphAddr (s.reg x)), rfl, toNat_glyphAddr (s.reg x), s.frame_setI _⟩

/-! ### The stores -/

/-- After a clamped write, byte `j` of what was written is at `a + j` where that lies in Memory (20_memory.md R63). -/
theorem Memory.read_memWrite_of_getElem? {m : Memory} {a : Addr} {bs : List Byte} {j : Nat} {b : Byte}
    (hm : m.wf = true) (hj : bs[j]? = some b) (hfit : a.toNat + j < 4096) :
    (m.memWrite a bs).read (a.toNat + j) = b := by
  obtain ⟨hlt, rfl⟩ := List.getElem?_eq_some_iff.1 hj
  exact Memory.read_memWrite_inside a bs hm (lt_clampLen_iff.2 ⟨hlt, hfit⟩)

/-- After a clamped write of BCD's digits, each digit is where it lies in Memory (42_index_memory.md R173). -/
theorem Memory.toNat_read_bcdDigits {m : Memory} {a : Addr} {v : Byte} {j d : Nat} (hm : m.wf = true)
    (hj : (bcdDigits v)[j]? = some (BitVec.ofNat 8 d)) (hd : d < 256) (hfit : a.toNat + j < 4096) :
    ((m.memWrite a (bcdDigits v)).read (a.toNat + j)).toNat = d := by
  rw [Memory.read_memWrite_of_getElem? hm hj hfit, BitVec.toNat_ofNat, Nat.mod_eq_of_lt hd]

/-- Settles O42: BCD is one clamped write of the three digits, and each digit of a byte is a byte. -/
theorem bcdStoresDigits : Obligations.BcdDigits := by
  intro x s hm
  have hv := (s.reg x).isLt
  exact ⟨s.setMem (s.mem.memWrite s.i (bcdDigits (s.reg x))), rfl,
    Memory.toNat_read_bcdDigits (j := 0) hm rfl (by omega) s.i.isLt,
    Memory.toNat_read_bcdDigits hm rfl (by omega), Memory.toNat_read_bcdDigits hm rfl (by omega),
    s.frame_memWrite s.i (bcdDigits (s.reg x))⟩

/-- STM stores one byte for each of V[0]..V[x] (42_index_memory.md R174). -/
theorem State.length_regsUpTo (s : State) (x : Nibble) : (s.regsUpTo x).length = x.toNat + 1 := by
  rw [State.regsUpTo, List.length_take, Vector.length_toList]
  exact Nat.min_eq_left x.isLt

/-- The byte STM stores for a register is the register's value (R174). -/
theorem State.getElem?_regsUpTo (s : State) {x r : Nibble} (hr : r.toNat ≤ x.toNat) :
    (s.regsUpTo x)[r.toNat]? = some (s.reg r) := by
  have hfile : s.v.toList[r.toNat]? = some (s.reg r) := by
    rw [Vector.getElem?_toList, Vector.getElem?_eq_getElem r.isLt]
    rfl
  rw [State.regsUpTo, List.getElem?_take_of_lt (Nat.lt_succ_of_le hr), hfile]

/-- Settles O43: STM is one clamped write of V[0]..V[X]. -/
theorem stmStores : Obligations.StmStores := by
  refine fun x s hm => ⟨s.setMem (s.mem.memWrite s.i (s.regsUpTo x)), rfl, fun r hr hfit => ?_, ?_⟩
  · exact Memory.read_memWrite_of_getElem? hm (s.getElem?_regsUpTo hr) hfit
  · rw [← s.length_regsUpTo x]
    exact s.frame_memWrite s.i (s.regsUpTo x)

/-! ### The load -/

/-- The registers a load reaches take its bytes (42_index_memory.md R175). -/
theorem Regs.getElem_load_of_getElem? {v : Regs} {bs : List Byte} {j k : Nat} {b : Byte} (hk : k < 16) (hjk : j ≤ k)
    (hb : bs[k - j]? = some b) : (Regs.load v j bs)[k] = b := by
  obtain ⟨hlt, rfl⟩ := List.getElem?_eq_some_iff.1 hb
  rw [Regs.getElem_load hk, dif_pos ⟨hjk, hlt⟩]

/-- The state LDM leaves: the meaning of LDM under a name (`exec_ldm`). -/
def State.ldmNext (s : State) (x : Nibble) : State :=
  s.setRegs ((s.v.load 0 (s.ldmBytes x)).load (s.ldmBytes x).length (s.ldmMissing x (s.ldmBytes x).length))

/-- LDM always completes (R175). -/
theorem exec_ldm (x : Nibble) (s : State) : exec (.ldm x) s = .next (s.ldmNext x) := rfl

section Ldm

variable {s : State} {x r : Nibble}

/-- LDM finds a byte for a register of V[0]..V[x] where the register's address lies in Memory (R175). -/
theorem State.lt_length_ldmBytes_iff (hr : r.toNat ≤ x.toNat) :
    r.toNat < (s.ldmBytes x).length ↔ s.i.toNat + r.toNat < 4096 := by
  rw [State.ldmBytes, Memory.length_memRead, lt_clampLen_iff]
  exact and_iff_right (Nat.lt_succ_of_le hr)

/-- A register for which LDM finds a byte takes it (R175). -/
theorem State.ldmNext_reg_of_fits (hr : r.toNat ≤ x.toNat) (hfit : s.i.toNat + r.toNat < 4096) :
    (s.ldmNext x).reg r = s.mem.read (s.i.toNat + r.toNat) := by
  have hlen : r.toNat < (s.ldmBytes x).length := (State.lt_length_ldmBytes_iff hr).2 hfit
  have hbyte : (s.ldmBytes x)[r.toNat - 0]? = some (s.mem.read (s.i.toNat + r.toNat)) :=
    List.getElem?_eq_some_iff.2 ⟨hlen, Memory.getElem_memRead s.mem s.i _ r.toNat hlen⟩
  rw [State.ldmNext, State.setRegs_reg, Regs.getElem_load r.isLt, dif_neg (by omega)]
  exact Regs.getElem_load_of_getElem? r.isLt (Nat.zero_le _) hbyte

/-- A register for which LDM finds no byte keeps its value under `LDM_SHORT = unchanged` (R175, 00_scope.md R14). -/
theorem State.ldmNext_reg_of_unchanged (hr : r.toNat ≤ x.toNat) (hout : ¬ s.i.toNat + r.toNat < 4096)
    (hshort : s.params.ldmShort = .unchanged) : (s.ldmNext x).reg r = s.reg r := by
  have hlen : ¬ r.toNat < (s.ldmBytes x).length := mt (State.lt_length_ldmBytes_iff hr).1 hout
  have hmissing : s.ldmMissing x (s.ldmBytes x).length = [] := by rw [State.ldmMissing, hshort]
  rw [State.ldmNext, State.setRegs_reg, hmissing, Regs.load, Regs.getElem_load r.isLt, dif_neg (by omega)]
  rfl

/-- A register for which LDM finds no byte takes its free value under `LDM_SHORT = any` (R175, R14). -/
theorem State.ldmNext_reg_of_any (hr : r.toNat ≤ x.toNat) (hout : ¬ s.i.toNat + r.toNat < 4096)
    (hshort : s.params.ldmShort = .any) : (s.ldmNext x).reg r = Config.ldmFree s.draws r.toNat := by
  have hlen : (s.ldmBytes x).length ≤ r.toNat := Nat.le_of_not_lt (mt (State.lt_length_ldmBytes_iff hr).1 hout)
  refine Regs.getElem_load_of_getElem? r.isLt hlen ?_
  rw [State.ldmMissing, hshort, List.getElem?_map, List.getElem?_range (by omega), Option.map_some,
    Nat.add_sub_cancel' hlen]

end Ldm

/-- A register of V[0]..V[x] is one numbered at most `x`. -/
theorem mem_regsTo_of_le {x r : Nibble} (hr : r.toNat ≤ x.toNat) : r ∈ regsTo x :=
  List.mem_map.2 ⟨r.toNat, List.mem_range.2 (Nat.lt_succ_of_le hr), (BitVec.ofNat_toNat 4 r).trans r.setWidth_eq⟩

/-- LDM touches V[0]..V[x] only (R175, R176). -/
theorem State.frame_ldmNext (s : State) (x : Nibble) : Frame { regs := regsTo x } s (s.ldmNext x) := by
  have hregs : ∀ r, r ∉ regsTo x → (s.ldmNext x).reg r = s.reg r := fun r hr =>
    registerWriters _ _ _ r (exec_ldm x s) (by simpa [writesReg] using mt mem_regsTo_of_le hr)
  exact ⟨hregs, by simp [State.ldmNext]⟩

/-- Settles O44: a register with a byte takes it; one without follows `LDM_SHORT`. -/
theorem ldmLoads : Obligations.LdmLoads := by
  refine fun x s => ⟨s.ldmNext x, exec_ldm x s, fun r hr => ?_, s.frame_ldmNext x⟩
  split
  case isTrue hfit => exact State.ldmNext_reg_of_fits hr hfit
  case isFalse hout =>
    cases hshort : s.params.ldmShort with
    | unchanged => exact State.ldmNext_reg_of_unchanged hr hout hshort
    | any => exact State.ldmNext_reg_of_any hr hout hshort

/-- Settles O45: LDM reads V[r] where STM stored it, since STM leaves I. -/
theorem stmLdmRoundTrip : Obligations.StmLdmRoundTrip := by
  intro x s hm
  obtain ⟨t, hstm, hstored, hframe⟩ := stmStores x s hm
  obtain ⟨-, -, hi, -⟩ := hframe
  refine ⟨t, hstm, fun u humem hui => ?_⟩
  obtain ⟨v, hldm, hloaded, -⟩ := ldmLoads x u
  refine ⟨v, hldm, fun r hr hfit => ?_⟩
  rw [hloaded r hr, hui, hi rfl, if_pos hfit, humem, hstored r hr hfit]

end Sys2Proof.Machine
end

section
/-!
PROOFS. The display statements: CLS (ClsClears) and DRAW (DrawPixels, DrawCollision, DrawEvents, DrawTwiceRestores).
`compositeRow_spec` says what one sprite row does; three inductions on the number of rows carry its three parts over to
the first `m` rows of a sprite. They turn on one fact: the rows above leave the cells of the coming row as they were.
-/
namespace Sys2Proof.Machine

/-! ### Frames of the display -/

/-- A new display after a move adds the display to what the move may touch (10_state.md R43). -/
theorem Frame.setDisplay {w : Touched} {s t : State} (h : Frame w s t) (fb : Framebuffer) (ev : List DisplayEvent) :
    Frame { w with display := true } s (t.setDisplay fb ev) := by
  obtain ⟨reg, pc, i, sp, dt, st, -, status, ports, mem, params⟩ := h
  exact ⟨reg, pc, i, sp, dt, st, nofun, status, ports, mem, params⟩

/-- A new display touches the display only (R43). -/
theorem State.frame_setDisplay (s : State) (fb : Framebuffer) (ev : List DisplayEvent) :
    Frame { display := true } s (s.setDisplay fb ev) := (Frame.refl {} s).setDisplay fb ev

/-- Settles O46: CLS is the replacement of the display by the blank grid and one more event. -/
theorem clsClears : Obligations.ClsClears :=
  fun s => ⟨s.setDisplay Framebuffer.blank (s.events ++ [.clear]), rfl, Framebuffer.pixel_blank, rfl,
    s.frame_setDisplay _ _⟩

/-! ### The first rows of a sprite -/

/-- The compositor on the first `m` of the sprite rows `f 0`, `f 1`, ... (43_display.md R191); `composite_eq` ties it
to DRAW. -/
def compositeFirst (x0 y0 : Nat) (f : Nat → Byte) (K : Canvas) (m : Nat) : Canvas :=
  compositeRows x0 y0 0 ((List.range m).map f) K

/-- Grid cell (px, py) lies under an on pixel of the first `m` of the sprite rows `f 0`, `f 1`, ... (R195);
`spriteCovers_eq` ties it to DRAW. -/
def firstCover (x0 y0 : Nat) (f : Nat → Byte) (m px py : Nat) : Bool :=
  decide (x0 ≤ px ∧ px < x0 + 8 ∧ y0 ≤ py ∧ py < y0 + m) && spriteBit (f (py - y0)) (px - x0)

/-- A last sprite row is composited after all others (R191). -/
theorem compositeRows_append_singleton (x0 y0 : Nat) (row : Byte) : ∀ (rows : List Byte) (r : Nat) (K : Canvas),
    compositeRows x0 y0 r (rows ++ [row]) K = compositeRow x0 y0 (r + rows.length) row (compositeRows x0 y0 r rows K)
  | [], _, _ => rfl
  | row' :: rows, r, K => by
    rw [List.cons_append, compositeRows, compositeRows, compositeRows_append_singleton x0 y0 row rows, List.length_cons,
      Nat.add_right_comm, Nat.add_assoc]

section FirstRows

variable (x0 y0 : Nat) (f : Nat → Byte) (K : Canvas) (m : Nat)

/-- Row number `m` is composited on what the first `m` rows left. -/
theorem compositeFirst_succ :
    compositeFirst x0 y0 f K (m + 1) = compositeRow x0 y0 m (f m) (compositeFirst x0 y0 f K m) := by
  rw [compositeFirst, List.range_succ, List.map_append, List.map_singleton, compositeRows_append_singleton,
    List.length_map, List.length_range, Nat.zero_add]
  rfl

/-- No row covers no cell. -/
theorem firstCover_zero (px py : Nat) : firstCover x0 y0 f 0 px py = false := by
  rw [firstCover, decide_eq_false (by omega), Bool.false_and]

/-- The first `m` rows cover no cell of row number `m`. -/
theorem firstCover_nextRow (px : Nat) : firstCover x0 y0 f m px (y0 + m) = false := by
  rw [firstCover, decide_eq_false (by omega), Bool.false_and]

/-- On its own grid row, the first `m + 1` rows cover what row number `m` covers. -/
theorem firstCover_succ_nextRow (px : Nat) :
    firstCover x0 y0 f (m + 1) px (y0 + m) = rowCovers x0 y0 m (f m) 8 px (y0 + m) := by
  rw [firstCover, rowCovers, Nat.add_sub_cancel_left]
  congr 1
  exact decide_eq_decide.2 (by omega)

variable {y0 m}

/-- On every other grid row, row number `m` adds nothing to what the first `m` rows cover. -/
theorem firstCover_succ_of_ne {py : Nat} (h : py ≠ y0 + m) (px : Nat) :
    firstCover x0 y0 f (m + 1) px py = firstCover x0 y0 f m px py := by
  rw [firstCover, firstCover]
  congr 1
  exact decide_eq_decide.2 (by omega)

/-- A sprite row's covered cells are on its own grid row. -/
theorem eq_of_rowCovers {row : Byte} {px py : Nat} (h : rowCovers x0 y0 m row 8 px py = true) : py = y0 + m :=
  (of_decide_eq_true (Bool.and_eq_true_iff.1 h).1).1

/-- On every other grid row, a sprite row covers no cell. -/
theorem rowCovers_of_ne {py : Nat} (h : py ≠ y0 + m) (row : Byte) (px : Nat) :
    rowCovers x0 y0 m row 8 px py = false :=
  Bool.eq_false_iff.2 (mt (eq_of_rowCovers x0) h)

variable (y0 m)

/-- The first `m` rows flip exactly the cells they cover (R191). -/
theorem compositeFirst_pixel : ∀ (m : Nat) {px py : Nat}, px < 64 → py < 32 →
    (compositeFirst x0 y0 f K m).fb.pixel px py = (K.fb.pixel px py ^^ firstCover x0 y0 f m px py)
  | 0, px, py, _, _ => by
    rw [firstCover_zero, Bool.xor_false]
    rfl
  | m + 1, px, py, hx, hy => by
    obtain ⟨hpixel, -, -⟩ := compositeRow_spec x0 y0 m (f m) (compositeFirst x0 y0 f K m)
    rw [compositeFirst_succ, hpixel px py hx hy, compositeFirst_pixel m hx hy]
    by_cases hpy : py = y0 + m
    · rw [hpy, firstCover_nextRow, firstCover_succ_nextRow, Bool.xor_false]
    · rw [rowCovers_of_ne x0 hpy, firstCover_succ_of_ne x0 f hpy, Bool.xor_false]

/-- The first `m` rows leave the cells of row number `m` as they were. -/
theorem compositeFirst_nextRow {px : Nat} (hx : px < 64) (hy : y0 + m < 32) :
    (compositeFirst x0 y0 f K m).fb.pixel px (y0 + m) = K.fb.pixel px (y0 + m) := by
  rw [compositeFirst_pixel x0 y0 f K m hx hy, firstCover_nextRow, Bool.xor_false]

/-- Some cell that was on lies under an on pixel of the first `m` rows. -/
def FirstCollide : Prop :=
  ∃ px py, px < 64 ∧ py < 32 ∧ K.fb.pixel px py = true ∧ firstCover x0 y0 f m px py = true

/-- The first `m + 1` rows meet an on cell iff the first `m` do or row number `m` does. -/
theorem firstCollide_succ : FirstCollide x0 y0 f K (m + 1) ↔ FirstCollide x0 y0 f K m ∨
    ∃ px py, px < 64 ∧ py < 32 ∧ (compositeFirst x0 y0 f K m).fb.pixel px py = true ∧
      rowCovers x0 y0 m (f m) 8 px py = true := by
  constructor
  · rintro ⟨px, py, hx, hy, hon, hcover⟩
    by_cases hpy : py = y0 + m
    · subst hpy
      rw [firstCover_succ_nextRow] at hcover
      exact .inr ⟨px, _, hx, hy, (compositeFirst_nextRow x0 y0 f K m hx hy).trans hon, hcover⟩
    · rw [firstCover_succ_of_ne x0 f hpy] at hcover
      exact .inl ⟨px, py, hx, hy, hon, hcover⟩
  · rintro (⟨px, py, hx, hy, hon, hcover⟩ | ⟨px, py, hx, hy, hon, hcover⟩)
    · have hpy : py ≠ y0 + m := by
        rintro rfl
        rw [firstCover_nextRow] at hcover
        exact Bool.false_ne_true hcover
      exact ⟨px, py, hx, hy, hon, (firstCover_succ_of_ne x0 f hpy px).trans hcover⟩
    · obtain rfl := eq_of_rowCovers x0 hcover
      exact ⟨px, _, hx, hy, (compositeFirst_nextRow x0 y0 f K m hx hy).symm.trans hon,
        (firstCover_succ_nextRow x0 y0 f m px).trans hcover⟩

/-- The first `m` rows collide iff a cell they flip was on before all of them (R192). -/
theorem compositeFirst_collided : ∀ m : Nat,
    (compositeFirst x0 y0 f K m).collided = true ↔ K.collided = true ∨ FirstCollide x0 y0 f K m
  | 0 => by simp [FirstCollide, firstCover_zero, compositeFirst, compositeRows]
  | m + 1 => by
    obtain ⟨-, hcollided, -⟩ := compositeRow_spec x0 y0 m (f m) (compositeFirst x0 y0 f K m)
    rw [compositeFirst_succ, hcollided, compositeFirst_collided m, firstCollide_succ, or_assoc]

/-- The event of a pixel of row number `m` does not depend on whether the first `m` rows were drawn. -/
theorem pixelEvent_compositeFirst (row : Byte) (c : Nat) :
    pixelEvent (compositeFirst x0 y0 f K m).fb x0 y0 m row c = pixelEvent K.fb x0 y0 m row c := by
  unfold pixelEvent
  by_cases h : x0 + c < 64 ∧ y0 + m < 32 ∧ spriteBit row c = true
  · rw [if_pos h, if_pos h, compositeFirst_nextRow x0 y0 f K m h.1 h.2.1]
  · rw [if_neg h, if_neg h]

/-- The first `m` rows emit their events row by row, each by the grid before all of them (R191, R197). -/
theorem compositeFirst_events : ∀ m : Nat, (compositeFirst x0 y0 f K m).events =
    K.events ++ (List.range m).flatMap fun r => (List.range 8).filterMap (pixelEvent K.fb x0 y0 r (f r))
  | 0 => (List.append_nil _).symm
  | m + 1 => by
    obtain ⟨-, -, hevents⟩ := compositeRow_spec x0 y0 m (f m) (compositeFirst x0 y0 f K m)
    rw [compositeFirst_succ, hevents, compositeFirst_events m, funext (pixelEvent_compositeFirst x0 y0 f K m (f m)),
      List.range_succ (n := m), List.flatMap_append, List.flatMap_singleton, List.append_assoc]

end FirstRows

/-! ### DRAW -/

/-- The state DRAW leaves: the meaning of DRAW under a name (`exec_draw`). -/
def State.drawNext (s : State) (x y n : Nibble) : State :=
  (s.setDisplay (s.composite x y n).fb (s.composite x y n).events).setReg flagReg
    (flagByte (s.composite x y n).collided)

/-- DRAW always completes (R191). -/
theorem exec_draw (x y n : Nibble) (s : State) : exec (.draw x y n) s = .next (s.drawNext x y n) := rfl

/-- A flag is 1 iff its condition holds (10_state.md R33). -/
theorem flagByte_eq_one_iff {b : Bool} : flagByte b = 1#8 ↔ b = true := by
  cases b <;> decide

/-- A flag that is not 1 is 0 (R33). -/
theorem flagByte_eq_zero_iff {b : Bool} : flagByte b = 0#8 ↔ ¬ flagByte b = 1#8 := by
  cases b <;> decide

section Draw

variable (s : State) (x y n : Nibble)

/-- The whole sprite is the first min(N, 0x1000 - I) of the rows at I (43_display.md R196). -/
theorem State.composite_eq : s.composite x y n = compositeFirst ((s.reg x).toNat % 64) ((s.reg y).toNat % 32)
    (fun r => s.mem.read (s.i.toNat + r)) ⟨s.fb, false, s.events⟩ (rowCount s n) := rfl

/-- What the sprite covers is what its rows cover (R193, R195, R196). -/
theorem spriteCovers_eq : spriteCovers s x y n = firstCover ((s.reg x).toNat % 64) ((s.reg y).toNat % 32)
    (fun r => s.mem.read (s.i.toNat + r)) (rowCount s n) := rfl

/-- DRAW touches the display and VF only (R191, R192). -/
theorem State.frame_drawNext : Frame { regs := [0xF#4], display := true } s (s.drawNext x y n) :=
  (s.frame_setDisplay _ _).setReg flagReg _

/-- DRAW flips the cells its sprite covers (R191). -/
theorem State.drawNext_pixel {px py : Nat} (hx : px < 64) (hy : py < 32) :
    (s.drawNext x y n).fb.pixel px py = (s.fb.pixel px py ^^ spriteCovers s x y n px py) := by
  rw [spriteCovers_eq]
  exact compositeFirst_pixel _ _ _ ⟨s.fb, false, s.events⟩ _ hx hy

/-- After DRAW, VF is the collision as a flag (R192). -/
theorem State.drawNext_VF : (s.drawNext x y n).reg 0xF#4 = flagByte (s.composite x y n).collided :=
  State.setReg_reg_same _ flagReg _

/-- After DRAW, VF is 1 iff a covered cell was on (R192). -/
theorem State.drawNext_VF_eq_one_iff : (s.drawNext x y n).reg 0xF#4 = 1#8 ↔
    ∃ px py, px < 64 ∧ py < 32 ∧ s.fb.pixel px py = true ∧ spriteCovers s x y n px py = true := by
  rw [State.drawNext_VF, flagByte_eq_one_iff, State.composite_eq, compositeFirst_collided, spriteCovers_eq]
  exact or_iff_right Bool.false_ne_true

/-- After DRAW, VF is 0 iff it is not 1 (R192). -/
theorem State.drawNext_VF_eq_zero_iff :
    (s.drawNext x y n).reg 0xF#4 = 0#8 ↔ ¬ (s.drawNext x y n).reg 0xF#4 = 1#8 := by
  rw [State.drawNext_VF, flagByte_eq_zero_iff]

/-- On its own rows and columns, the sprite covers the cells under its on pixels (R193, R195). -/
theorem spriteCovers_at {r c : Nat} (hr : r < rowCount s n) (hc : c < 8) :
    spriteCovers s x y n ((s.reg x).toNat % 64 + c) ((s.reg y).toNat % 32 + r) =
      spriteBit (s.mem.read (s.i.toNat + r)) c := by
  rw [spriteCovers, decide_eq_true (by omega), Bool.true_and, Nat.add_sub_cancel_left, Nat.add_sub_cancel_left]
  rfl

end Draw

/-- Settles O47: DRAW flips what its sprite covers. -/
theorem drawPixels : Obligations.DrawPixels := fun x y n s =>
  ⟨s.drawNext x y n, exec_draw x y n s, fun _ _ hx hy => s.drawNext_pixel x y n hx hy, s.frame_drawNext x y n⟩

/-- Settles O48: VF is a flag, and it is 1 iff a covered cell was on. -/
theorem drawCollision : Obligations.DrawCollision := fun x y n s =>
  ⟨s.drawNext x y n, exec_draw x y n s,
    (Classical.em _).symm.imp_left (s.drawNext_VF_eq_zero_iff x y n).2, s.drawNext_VF_eq_one_iff x y n⟩

/-- Functions that agree on a list keep the same results of it (the core library states this for `map` only). -/
theorem filterMap_congr_of_mem {α β : Type} {g h : α → Option β} : ∀ {l : List α}, (∀ a ∈ l, g a = h a) →
    l.filterMap g = l.filterMap h
  | [], _ => rfl
  | a :: l, hgh => by
    rw [List.filterMap_cons, List.filterMap_cons, hgh a List.mem_cons_self,
      filterMap_congr_of_mem fun b hb => hgh b (List.mem_cons_of_mem a hb)]

/-- Settles O49: the events of the sprite's rows, each pixel's by what the sprite covers. -/
theorem drawEvents : Obligations.DrawEvents := by
  intro x y n s
  refine ⟨s.drawNext x y n, exec_draw x y n s, ?_⟩
  have hcanvas : (s.drawNext x y n).events = (s.composite x y n).events := rfl
  rw [hcanvas, State.composite_eq, compositeFirst_events, List.flatMap_def, List.flatMap_def]
  refine congrArg (s.events ++ List.flatten ·) (List.map_congr_left fun r hr => filterMap_congr_of_mem fun c hc => ?_)
  rw [spriteCovers_at s x y n (List.mem_range.1 hr) (List.mem_range.1 hc)]
  rfl

/-! ### DRAW twice -/

/-- A state with the same sprite bytes and anchor draws the same sprite (43_display.md R193, R195, R196). -/
theorem spriteCovers_congr {s u : State} {x y x' y' : Nibble} (n : Nibble) (hmem : u.mem = s.mem) (hi : u.i = s.i)
    (hx : (u.reg x').toNat % 64 = (s.reg x).toNat % 64) (hy : (u.reg y').toNat % 32 = (s.reg y).toNat % 32) :
    spriteCovers u x' y' n = spriteCovers s x y n := by
  have hrows : rowCount u n = rowCount s n := by rw [rowCount, rowCount, hi]
  funext px py
  rw [spriteCovers, spriteCovers, hx, hy, hmem, hi, hrows]

/-- A pixel that is on lies on the grid. -/
theorem Framebuffer.inside_of_pixel {fb : Framebuffer} {x y : Nat} (h : fb.pixel x y = true) : x < 64 ∧ y < 32 :=
  Decidable.of_not_not fun hout => Bool.eq_false_iff.1 (fb.pixel_outside hout) h

section Twice

variable {s u : State} {x y x' y' n : Nibble}

/-- The second DRAW flips back what the first flipped (R191). -/
theorem State.drawNext_drawNext_fb (hfb : u.fb = (s.drawNext x y n).fb)
    (hcovers : spriteCovers u x' y' n = spriteCovers s x y n) : (u.drawNext x' y' n).fb = s.fb := by
  refine Framebuffer.ext_pixel fun px py hx hy => ?_
  rw [u.drawNext_pixel x' y' n hx hy, hfb, s.drawNext_pixel x y n hx hy, hcovers, Bool.xor_assoc, Bool.xor_self,
    Bool.xor_false]

/-- The second DRAW reports 1 iff the first turned a pixel on: those are the covered cells it finds on (R191, R192). -/
theorem State.drawNext_drawNext_VF_eq_one_iff (hfb : u.fb = (s.drawNext x y n).fb)
    (hcovers : spriteCovers u x' y' n = spriteCovers s x y n) : (u.drawNext x' y' n).reg 0xF#4 = 1#8 ↔
      ∃ px py, s.fb.pixel px py = false ∧ (s.drawNext x y n).fb.pixel px py = true := by
  rw [State.drawNext_VF_eq_one_iff, hfb, hcovers]
  constructor
  · rintro ⟨px, py, hx, hy, hon, hcover⟩
    have hflip := s.drawNext_pixel x y n hx hy
    rw [hon, hcover, Bool.xor_true] at hflip
    exact ⟨px, py, by simpa using hflip.symm, hon⟩
  · rintro ⟨px, py, hoff, hon⟩
    obtain ⟨hx, hy⟩ := Framebuffer.inside_of_pixel hon
    have hflip := s.drawNext_pixel x y n hx hy
    rw [hon, hoff, Bool.false_xor] at hflip
    exact ⟨px, py, hx, hy, hon, hflip.symm⟩

/-- A DRAW that reports 0 changes a pixel only by turning it on (R191, R192). -/
theorem State.drawNext_fb_eq_iff (hVF : (s.drawNext x y n).reg 0xF#4 = 0#8) : (s.drawNext x y n).fb = s.fb ↔
    ¬ ∃ px py, s.fb.pixel px py = false ∧ (s.drawNext x y n).fb.pixel px py = true := by
  constructor
  · rintro heq ⟨px, py, hoff, hon⟩
    rw [heq, hoff] at hon
    exact Bool.false_ne_true hon
  · intro hnone
    refine Framebuffer.ext_pixel fun px py hx hy => ?_
    have hflip := s.drawNext_pixel x y n hx hy
    cases hcover : spriteCovers s x y n px py with
    | false => rw [hflip, hcover, Bool.xor_false]
    | true =>
      have hoff : s.fb.pixel px py = false := by
        rw [State.drawNext_VF_eq_zero_iff, State.drawNext_VF_eq_one_iff] at hVF
        exact Bool.eq_false_iff.2 fun hon => hVF ⟨px, py, hx, hy, hon, hcover⟩
      exact absurd ⟨px, py, hoff, by rw [hflip, hoff, hcover]; rfl⟩ hnone

end Twice

/-- Settles O50: the second DRAW's sprite covers what the first's did, for DRAW leaves Memory and I. -/
theorem drawTwiceRestores : Obligations.DrawTwiceRestores := by
  refine fun x y n s => ⟨s.drawNext x y n, exec_draw x y n s, fun x' y' u hfb hmem hi hx hy => ?_⟩
  have hcovers : spriteCovers u x' y' n = spriteCovers s x y n := spriteCovers_congr n hmem hi hx hy
  refine ⟨u.drawNext x' y' n, exec_draw x' y' n u, State.drawNext_drawNext_fb hfb hcovers,
    State.drawNext_drawNext_VF_eq_one_iff hfb hcovers, fun hVF => ?_⟩
  rw [State.drawNext_VF_eq_zero_iff, State.drawNext_drawNext_VF_eq_one_iff hfb hcovers, State.drawNext_fb_eq_iff hVF]

end Sys2Proof.Machine
end

section
/-!
PROOFS. The timer and key statements: the timer accesses (TimerAccess), the key skips (KeySkips), the key wait
(GtkTakesKeyOrWaits, GtkWaitRepeats) and who reads the ports (PortsReadOnlyByTheirInstructions). The last rests on one
case split over the instructions, `exec_mapInputs`, which says the same of the timers (60_exceptions.md R251).
-/
namespace Sys2Proof.Machine
open Host

/-! ### Frames of the timers and the ports -/

/-- A write of DT touches DT only (10_state.md R41). -/
theorem State.frame_setDt (s : State) (b : Byte) : Frame { dt := true } s (s.setDt b) := by
  simp [Frame]

/-- A write of ST touches ST only (10_state.md R42). -/
theorem State.frame_setSt (s : State) (b : Byte) : Frame { st := true } s (s.setSt b) := by
  simp [Frame]

/-- The ports' move after an interpreter step touches the ports only (00_scope.md R22 to R24). -/
theorem State.frame_refreshPorts (s : State) : Frame { ports := true } s s.refreshPorts := by
  simp [Frame]

/-! ### Timers -/

/-- Settles O51: GDT is the plain write of DT, SDT and SST are the writes of a counter. -/
theorem timerAccess : Obligations.TimerAccess :=
  fun x s => ⟨⟨s.setReg x s.dt, rfl, s.setReg_reg_same x s.dt, s.frame_setReg x s.dt⟩,
    ⟨s.setDt (s.reg x), rfl, rfl, s.frame_setDt _⟩, ⟨s.setSt (s.reg x), rfl, rfl, s.frame_setSt _⟩⟩

/-! ### Key skips -/

/-- The key index is the low nibble (44_timers_keys.md R213, R214). -/
theorem toNat_keyIndex (b : Byte) : (keyIndex b).toNat = b.toNat % 16 := by
  have hlow : (b &&& 0x0F#8).toNat = b.toNat % 16 :=
    (BitVec.toNat_and b 0x0F#8).trans (Nat.and_two_pow_sub_one_eq_mod b.toNat 4)
  rw [keyIndex, BitVec.toNat_setWidth, hlow]
  exact Nat.mod_mod b.toNat 16

/-- A key is the one a register value names iff its number is the value's low nibble (R213). -/
theorem eq_keyIndex_iff {k : Nibble} {b : Byte} : k = keyIndex b ↔ k.toNat = b.toNat % 16 := by
  rw [← BitVec.toNat_inj, toNat_keyIndex]

/-- When the port's answer is the named key: SKE's condition (R213). -/
theorem answer_eq_keyIndex_iff {p : Option Nibble} {b : Byte} :
    p = some (keyIndex b) ↔ ∃ k, p = some k ∧ k.toNat = b.toNat % 16 := by
  cases p with
  | none => simp
  | some k => simp [eq_keyIndex_iff]

/-- When the port's answer is not the named key: SKN's condition (R214). -/
theorem answer_ne_keyIndex_iff {p : Option Nibble} {b : Byte} :
    p ≠ some (keyIndex b) ↔ p = none ∨ ∃ k, p = some k ∧ k.toNat ≠ b.toNat % 16 := by
  cases p with
  | none => simp
  | some k => simp [eq_keyIndex_iff]

/-- Settles O39: both skips by the comparison of the port's answer with the key that V[X] names. -/
theorem keySkips : Obligations.KeySkips :=
  fun _ _ => ⟨skipRule_of_exec rfl (beq_iff_eq.trans answer_eq_keyIndex_iff),
    skipRule_of_exec rfl (bne_iff_ne.trans answer_ne_keyIndex_iff)⟩

/-! ### The key wait -/

/-- A key index is its register value (R215). -/
theorem toNat_keyByte (k : Nibble) : (keyByte k).toNat = k.toNat :=
  BitVec.toNat_setWidth_of_le (by decide)

/-- Settles O52: GTK is the plain write of the key, or the move of pc back. -/
theorem gtkTakesKeyOrWaits : Obligations.GtkTakesKeyOrWaits := by
  refine fun x s => ⟨fun k hkey => ⟨_, exec_gtk_key x hkey, ?_, s.frame_setReg x _⟩, fun hnone =>
    ⟨_, exec_gtk_wait x hnone, rfl, s.frame_setPc _⟩⟩
  rw [State.setReg_reg_same, toNat_keyByte]

/-- An interpreter step at a GTK with no key pressed comes back to the same state, but for the ports: the fetch's advance
of pc is undone by the execute phase (R215, 70_reset_and_hazards.md R282). -/
theorem step_gtk_wait {s : State} {x : Nibble} (hrun : s.status = .running) (hturn : s.tickPort ≠ 0)
    (hpc : s.pc.toNat ≤ 0xFFD) (hdecode : decode (s.mem.wordAt s.pc) = .instr (.gtk x)) (hnone : s.keyPort = none) :
    step s = .next s.refreshPorts := by
  have hwait : exec (.gtk x) (s.setPc (s.pc + 2#12)) = .next s := by
    rw [exec_gtk_wait x (s := s.setPc (s.pc + 2#12)) hnone, State.setPc_pc, add_two_sub_two]
    rfl
  rw [stepRunsDecoded s (.gtk x) hrun hturn hpc hdecode, hwait, mapNext]

/-- Settles O53: the interpreter's turn by `step_gtk_wait`, the timer agent's by `step_timer`. -/
theorem gtkWaitRepeats : Obligations.GtkWaitRepeats :=
  fun s _ hrun hpc hdecode hnone =>
    ⟨fun hturn => ⟨s.refreshPorts, step_gtk_wait hrun hturn hpc hdecode hnone, s.frame_refreshPorts⟩,
      fun hdue => ⟨s.tickStep, step_timer hrun hdue, rfl, rfl, hnone, s.frame_tickStep⟩⟩

/-! ### Who reads the ports -/

/-- A change of what the interpreter shares with the timer agent and the host: the two counters and the three ports. -/
structure InputChange where
  dt   : Byte → Byte := id
  st   : Byte → Byte := id
  key  : Option Nibble → Option Nibble := id
  rand : Byte → Byte := id
  tick : Nat → Nat := id

/-- The state with its counters and ports changed. -/
def State.mapInputs (s : State) (m : InputChange) : State :=
  { s with dt := m.dt s.dt, st := m.st s.st, keyPort := m.key s.keyPort, randPort := m.rand s.randPort,
           tickPort := m.tick s.tickPort }

/-- A skip looks at pc only (40_control_flow.md R120). -/
theorem State.skipIf_mapInputs (s : State) (m : InputChange) (c : Bool) (i : Instr) :
    (s.mapInputs m).skipIf c i = (s.skipIf c i).mapInputs m := by
  cases c with
  | false => rfl
  | true =>
    exact (apply_ite (·.mapInputs m) (s.atTop = true) (s.raiseBy .pcOverflow i) (s.setPc (s.pc + 2#12))).symm

/-- An instruction runs the same after a change of counters and ports, but for those it accesses: GDT, SDT, SST the
counters, SKE, SKN, GTK the key port, RAND the random port, none the tick port (44_timers_keys.md R210 to R216,
00_scope.md R22 to R24). -/
theorem exec_mapInputs (i : Instr) (s : State) (m : InputChange)
    (htimer : (∀ x, i ≠ .gdt x ∧ i ≠ .sdt x ∧ i ≠ .sst x) ∨ (m.dt = id ∧ m.st = id))
    (hkey : (∀ x, i ≠ .ske x ∧ i ≠ .skn x ∧ i ≠ .gtk x) ∨ m.key = id)
    (hrand : (∀ x nn, i ≠ .rand x nn) ∨ m.rand = id) :
    exec i (s.mapInputs m) = mapNext (·.mapInputs m) (exec i s) := by
  obtain ⟨dt, st, key, rand, tick⟩ := m
  cases i with
  | gdt x | sdt x | sst x =>
    obtain ⟨rfl, rfl⟩ : dt = id ∧ st = id := htimer.resolve_left fun h => by simpa using h x
    rfl
  | rand x nn =>
    obtain rfl : rand = id := hrand.resolve_left fun h => h x nn rfl
    rfl
  | ske x | skn x =>
    obtain rfl : key = id := hkey.resolve_left fun h => by simpa using h x
    exact congrArg Outcome.next (s.skipIf_mapInputs _ _ _)
  | gtk x =>
    obtain rfl : key = id := hkey.resolve_left fun h => by simpa using h x
    cases hk : s.keyPort with
    | none => rw [exec_gtk_wait x hk, exec_gtk_wait x (s := s.mapInputs ⟨dt, st, id, rand, tick⟩) hk]; rfl
    | some k => rw [exec_gtk_key x hk, exec_gtk_key x (s := s.mapInputs ⟨dt, st, id, rand, tick⟩) hk]; rfl
  | seq | sne | sre | srne => exact congrArg Outcome.next (s.skipIf_mapInputs _ _ _)
  | call nnn =>
    by_cases hs : s.sp = 32
    · rw [exec_call_full nnn hs, exec_call_full nnn (s := s.mapInputs _) hs]; rfl
    · rw [exec_call_room nnn hs, exec_call_room nnn (s := s.mapInputs _) hs]; rfl
  | ret =>
    by_cases hs : s.sp = 0
    · rw [exec_ret_empty hs, exec_ret_empty (s := s.mapInputs _) hs]; rfl
    · rw [exec_ret_nonempty hs, exec_ret_nonempty (s := s.mapInputs _) hs]; rfl
  | cls | jmp | seti | addi | set | or | and | xor | add | sub | shr | nsub | shl | setidx | jmpo | draw | addidx
  | font | bcd | stm | ldm => rfl

/-- Settles O59: each clause is `exec_mapInputs` for a change of one port. -/
theorem portsReadOnlyByTheirInstructions : Obligations.PortsReadOnlyByTheirInstructions :=
  ⟨fun i s k hi => exec_mapInputs i s { key := fun _ => k } (.inr ⟨rfl, rfl⟩) (.inl hi) (.inr rfl),
    fun i s b hi => exec_mapInputs i s { rand := fun _ => b } (.inr ⟨rfl, rfl⟩) (.inr rfl) (.inl hi),
    fun i s n => exec_mapInputs i s { tick := fun _ => n } (.inr ⟨rfl, rfl⟩) (.inr rfl) (.inr rfl)⟩

end Sys2Proof.Machine
end

section
/-!
PROOFS. The exception statements: the fatal fetches (FatalFetchHalts) and the Invalid word (InvalidWordHalts), what every
fatal error is (FatalCausesTable) and leaves (FatalIsPrecise), and the timer agent beside the interpreter
(TimerTicksForever, AgentsShareOnlyTimers). `HaltingStep` says once what a step that halts the block did; the two
statements about every fatal error are read off it.
-/
namespace Sys2Proof.Machine
open Host

/-! ### The fatal fetches and the Invalid word -/

/-- A step that halts touches status and the ports, and pc where the fetch advanced it to `a` (60_exceptions.md R231,
R240). -/
theorem State.frame_halt (s : State) (a : Addr) (c : Cause) (p : Addr) (w : Option Word) :
    Frame { status := true, pc := true, ports := true } s ((s.setPc a).raise c p w).refreshPorts := by
  simp [Frame]

/-- A fetch that is fatal ends the interpreter's step (30_encoding.md R111). -/
theorem step_of_fetch_fatal {s t : State} (hrun : s.status = .running) (hturn : s.tickPort ≠ 0)
    (hfetch : s.fetch = .fatal t) : step s = .next t.refreshPorts := by
  rw [step_interpreter hrun hturn, State.cycle, hfetch, afterCycle]

/-- Settles O9: either fetch is fatal, and the raise touches status only. -/
theorem fatalFetchHalts : Obligations.FatalFetchHalts := by
  intro s hrun hturn
  have hframe : ∀ c p w, Frame { status := true, ports := true } s (s.raise c p w).refreshPorts := by simp [Frame]
  refine ⟨fun hpc => ?_, fun hpc => ?_⟩
  · have hfetch := State.fetch_of_eq_FFF (congrArg BitVec.toNat hpc)
    exact ⟨_, step_of_fetch_fatal hrun hturn hfetch, by rw [← hpc]; rfl, hframe _ _ _⟩
  · have hfetch := State.fetch_of_eq_FFE (congrArg BitVec.toNat hpc)
    exact ⟨_, step_of_fetch_fatal hrun hturn hfetch, by rw [← hpc]; rfl, hframe _ _ _⟩

/-- The interpreter's step where a word can be fetched: the execute phase of that word (R110 to R113). -/
theorem step_execute {s : State} (hrun : s.status = .running) (hturn : s.tickPort ≠ 0) (hpc : s.pc.toNat ≤ 0xFFD) :
    step s = afterCycle (execDecoded (decode (s.mem.wordAt s.pc)) (s.setPc (s.pc + 2#12))) := by
  rw [step_interpreter hrun hturn, State.cycle, State.fetch_of_le hpc]

/-- The execute phase of an Invalid word is the fatal error that records the address it was fetched from (R113). -/
theorem execDecoded_invalid (w : Word) (s : State) :
    execDecoded (.invalid w) (s.setPc (s.pc + 2#12)) =
      .next ((s.setPc (s.pc + 2#12)).raise .invalidInstruction s.pc (some w)) := by
  rw [execDecoded, State.fetchAddr, State.setPc_pc, add_two_sub_two]

/-- Settles O10: the marker carries the fetched word, and its execute phase raises. -/
theorem invalidWordHalts : Obligations.InvalidWordHalts := by
  intro s w hrun hturn hpc hdecode
  obtain rfl := eq_of_decode_invalid hdecode
  have hstep := step_execute hrun hturn hpc
  rw [hdecode, execDecoded_invalid] at hstep
  exact ⟨rfl, _, hstep, rfl, toNat_add_two hpc, s.frame_halt _ _ _ _⟩

/-! ### What a step that halts did -/

/-- The causes of the execute phase, and what each says of the state the step began in (60_exceptions.md R232, R235 to
R237, R239). -/
inductive ExecuteCause (s : State) : Cause → Prop
  /-- The fetched word is Invalid. -/
  | invalid (hdecode : decode (s.mem.wordAt s.pc) = .invalid (s.mem.wordAt s.pc)) : ExecuteCause s .invalidInstruction
  /-- CALL at full depth. -/
  | overflow (nnn : Addr) (hdecode : decode (s.mem.wordAt s.pc) = .instr (.call nnn)) (hsp : s.sp = 32) :
      ExecuteCause s .stackOverflow
  /-- RET of an empty stack. -/
  | underflow (hdecode : decode (s.mem.wordAt s.pc) = .instr .ret) (hsp : s.sp = 0) : ExecuteCause s .stackUnderflow
  /-- A skip past the top. -/
  | skip (i : Instr) (hdecode : decode (s.mem.wordAt s.pc) = .instr i) (hskip : isSkip i = true)
      (htop : 0xFFC ≤ s.pc.toNat) : ExecuteCause s .pcOverflow

/-- The three ways a step from `s` halts the block, with the state it leaves (R231, R240): each records pc, and the word
where one was fetched. -/
inductive HaltingStep (s : State) : State → Prop
  /-- No word to fetch (R234). -/
  | fetchTop (hpc : s.pc = 0xFFF#12) : HaltingStep s (s.raise .fetchOutOfRange s.pc none).refreshPorts
  /-- A word to fetch, but no advance of pc (R111). -/
  | fetchBelowTop (hpc : s.pc = 0xFFE#12) :
      HaltingStep s (s.raise .pcOverflow s.pc (some (s.mem.wordAt s.pc))).refreshPorts
  /-- An error of the execute phase. -/
  | execute {c : Cause} (hpc : s.pc.toNat ≤ 0xFFD) (hc : ExecuteCause s c) :
      HaltingStep s ((s.setPc (s.pc + 2#12)).raise c s.pc (some (s.mem.wordAt s.pc))).refreshPorts

/-- An execute phase that leaves a halted state raised one of the causes, and did nothing else (R232, R240). -/
theorem executeCause_of_execDecoded {s u : State} (hrun : s.status = .running) (hpc : s.pc.toNat ≤ 0xFFD)
    (h : execDecoded (decode (s.mem.wordAt s.pc)) (s.setPc (s.pc + 2#12)) = .next u) (hhalt : u.status ≠ .running) :
    ∃ c, ExecuteCause s c ∧ u = (s.setPc (s.pc + 2#12)).raise c s.pc (some (s.mem.wordAt s.pc)) := by
  cases hdecode : decode (s.mem.wordAt s.pc) with
  | invalid w =>
    obtain rfl := eq_of_decode_invalid hdecode
    rw [hdecode, execDecoded_invalid] at h
    exact ⟨_, .invalid hdecode, (Outcome.next.inj h).symm⟩
  | instr i =>
    rw [hdecode, execDecoded] at h
    have hstatus := exec_status h
    rw [State.setPc_pc, add_two_sub_two, encode_of_decode hdecode] at hstatus
    rcases hstatus with hst | ⟨⟨a, rfl⟩, hsp, hu⟩ | ⟨rfl, hsp, hu⟩ | ⟨hskip, htop, hu⟩
    · exact absurd (hst.trans hrun) hhalt
    · exact ⟨_, .overflow a hdecode hsp, hu⟩
    · exact ⟨_, .underflow hdecode hsp, hu⟩
    · rw [toNat_add_two hpc] at htop
      exact ⟨_, .skip i hdecode hskip (by omega), hu⟩

/-- A step of a running block that halts it is a halting step: the timer agent raises nothing (R238, R246). -/
theorem haltingStep_of_step {s t : State} (hrun : s.status = .running) (hstep : step s = .next t)
    (hhalt : t.status ≠ .running) : HaltingStep s t := by
  rcases step_cases hrun with ⟨-, hcase⟩ | ⟨-, hpc, hcase⟩ | ⟨-, hpc, hcase⟩ | ⟨-, hpc, hcase⟩ <;> rw [hcase] at hstep
  · obtain rfl := Outcome.next.inj hstep
    exact absurd hrun hhalt
  · obtain rfl := Outcome.next.inj hstep
    exact .fetchTop hpc
  · obtain rfl := Outcome.next.inj hstep
    exact .fetchBelowTop hpc
  · obtain ⟨u, hu, rfl⟩ := afterCycle_eq_next hstep
    obtain ⟨c, hc, rfl⟩ := executeCause_of_execDecoded hrun hpc hu hhalt
    exact .execute hpc hc

/-- Settles O13: a fatal fetch leaves pc, an error of the execute phase the pc that the fetch advanced. -/
theorem fatalIsPrecise : Obligations.FatalIsPrecise := by
  intro s t hrun hstep hhalt
  cases haltingStep_of_step hrun hstep hhalt with
  | fetchTop hpc | fetchBelowTop hpc => exact ⟨s.frame_halt s.pc _ _ _, .inl ⟨rfl, by rw [hpc]; decide⟩⟩
  | execute hpc => exact ⟨s.frame_halt _ _ _ _, .inr ⟨toNat_add_two hpc, hpc⟩⟩

/-- Settles O14: each line of the table is a halting step; the word of RET is the one RET encodes to. -/
theorem fatalCausesTable : Obligations.FatalCausesTable := by
  intro s t _ hrun hstep
  by_cases hhalt : t.status = .running
  · exact .inl hhalt
  refine .inr ?_
  cases haltingStep_of_step hrun hstep hhalt with
  | fetchTop hpc => exact .inl ⟨hpc, rfl⟩
  | fetchBelowTop hpc => exact .inr (.inl ⟨hpc, rfl⟩)
  | execute hpc hc =>
    refine .inr (.inr ?_)
    cases hc with
    | invalid hdecode => exact .inl ⟨hpc, hdecode, rfl⟩
    | overflow nnn hdecode hsp => exact .inr (.inl ⟨hpc, ⟨nnn, hdecode⟩, hsp, rfl⟩)
    | underflow hdecode hsp =>
      have hword : s.mem.wordAt s.pc = 0x00EE#16 := (encode_of_decode hdecode).symm
      exact .inr (.inr (.inl ⟨hpc, hdecode, hsp, by rw [← hword]; rfl⟩))
    | skip i hdecode hskip htop => exact .inr (.inr (.inr ⟨htop, hpc, ⟨i, hdecode, hskip⟩, rfl⟩))

/-! ### The timer agent's turn -/

/-- No execute phase moves the tick strobe (00_scope.md R24). -/
theorem execDecoded_tickPort {d : Decoded} {s t : State} (h : execDecoded d s = .next t) : t.tickPort = s.tickPort := by
  cases d with
  | instr i =>
    obtain ⟨-, -, -, -, -, -, -, -, -, htick, -⟩ := writersOfEachState i s t h
    exact htick
  | invalid w =>
    obtain rfl := Outcome.next.inj h
    rfl

/-- An interpreter step, a fatal one too, brings the next tick strobe one step nearer (60_exceptions.md R247). -/
theorem step_tickPort {s t : State} (hturn : s.tickPort ≠ 0) (hstep : step s = .next t) :
    t.tickPort = s.tickPort - 1 := by
  rcases step_cases (running_of_step hstep) with ⟨hdue, -⟩ | ⟨-, -, hcase⟩ | ⟨-, -, hcase⟩ | ⟨-, -, hcase⟩
  · exact absurd hdue hturn
  · obtain rfl := Outcome.next.inj (hcase.symm.trans hstep)
    rfl
  · obtain rfl := Outcome.next.inj (hcase.symm.trans hstep)
    rfl
  · obtain ⟨u, hu, rfl⟩ := afterCycle_eq_next (hcase.symm.trans hstep)
    have htick := execDecoded_tickPort hu
    exact congrArg (· - 1) htick

/-- Along an infinite run the strobe falls due when the interpreter steps before it are done. -/
theorem InfiniteRun.tick_due {r : Nat → State} (hr : InfiniteRun r) : ∀ {k n : Nat}, (r n).tickPort = k →
    (r (n + k)).tickPort = 0
  | 0, _, hk => hk
  | k + 1, n, hk => by
    have hnext : (r (n + 1)).tickPort = k := by rw [step_tickPort (by omega) (hr n), hk, Nat.add_sub_cancel]
    rw [← Nat.add_assoc, Nat.add_right_comm]
    exact hr.tick_due hnext

/-- Settles O55: at the state where the strobe is due the step is the timer agent's. -/
theorem timerTicksForever : Obligations.TimerTicksForever := by
  intro r hr n
  have hdue := hr.tick_due (n := n) rfl
  have hstep := hr (n + (r n).tickPort)
  have htick := Outcome.next.inj (hstep.symm.trans (step_timer (running_of_step hstep) hdue))
  refine ⟨n + (r n).tickPort, Nat.le_add_right _ _, Nat.le_refl _, ?_⟩
  rw [htick]
  exact ⟨rfl, rfl, hdue, State.frame_tickStep _⟩

/-! ### What the agents share -/

/-- Any number of ticks is a change of the two counters (R246). -/
theorem State.repeat_tick_eq_mapInputs (s : State) (n : Nat) :
    Nat.repeat State.tick n s = s.mapInputs { dt := Nat.repeat tickByte n, st := Nat.repeat tickByte n } := by
  induction n with
  | zero => rfl
  | succ n ih => rw [Nat.repeat, ih]; rfl

/-- Settles O58: ticks are a change of the counters, which `exec_mapInputs` carries past every instruction that does not
access them (R251). -/
theorem agentsShareOnlyTimers : Obligations.AgentsShareOnlyTimers := by
  intro i s n hi
  have hticks : Nat.repeat State.tick n =
      (·.mapInputs { dt := Nat.repeat tickByte n, st := Nat.repeat tickByte n }) :=
    funext fun s => s.repeat_tick_eq_mapInputs n
  rw [hticks]
  exact exec_mapInputs i s _ (.inl hi) (.inr rfl) (.inr rfl)

end Sys2Proof.Machine
end

section
/-!
PROOFS. The reset and hazard statements: the state right after reset (ResetState), the launch state (LaunchState) and a
block stopped at an address (StoppedStays). The launch is reset but for the host's load, whose bytes are read back by
`Memory.read_memWrite_of_lt`; a stopped block's step is the ports' move or the timer agent's.
-/
namespace Sys2Proof.Machine
open Host

/-! ### Reset and launch -/

/-- Settles O1: registers, pixels and Memory are blank, every other piece is a field of `State.reset`. -/
theorem resetState : Obligations.ResetState :=
  ⟨fun x => Vector.getElem_replicate x.isLt, rfl, rfl, rfl, rfl, rfl, Framebuffer.pixel_blank, rfl,
    Memory.read_nil, rfl⟩

/-- Below 4096 the clamp of a write does not show: an address reads as the byte meant for it, or as before
(20_memory.md R63). -/
theorem Memory.read_memWrite_of_lt {m : Memory} (a : Addr) (bs : List Byte) (hm : m.wf = true) {c : Nat}
    (hc : c < 4096) : (m.memWrite a bs).read c =
      if a.toNat ≤ c ∧ c - a.toNat < bs.length then bs.getD (c - a.toNat) 0x00#8 else m.read c := by
  have hclamp : (a.toNat ≤ c ∧ c - a.toNat < clampLen a bs.length) ↔ (a.toNat ≤ c ∧ c - a.toNat < bs.length) := by
    rw [lt_clampLen_iff]
    omega
  simp only [Memory.read_memWrite a bs hm, hclamp]

/-- The launch's Memory: the image over the font over 0x00 (70_reset_and_hazards.md R271). -/
theorem State.read_start_mem (font image : List Byte) (sb : StackBase) {a : Nat} (ha : a < 4096) :
    (State.start font image sb).mem.read a =
      if 0x200 ≤ a ∧ a - 0x200 < image.length then image.getD (a - 0x200) 0x00#8
      else if 0x050 ≤ a ∧ a - 0x050 < font.length then font.getD (a - 0x050) 0x00#8
      else 0x00#8 := by
  have hempty : Memory.wf [] = true := rfl
  have himage := Memory.read_memWrite_of_lt programStart image (Memory.wf_memWrite fontBase font hempty) ha
  rw [Memory.read_memWrite_of_lt fontBase font hempty ha] at himage
  exact himage

/-- Settles O2: the load writes Memory only, so every other piece is reset's (O1); Memory is read back byte by byte, and
past its end by its canonical form. -/
theorem launchState : Obligations.LaunchState := by
  intro font image sb
  obtain ⟨hreg, hi, hpc, hsp, hdt, hst, hpixel, hstatus, -, hevents⟩ := resetState
  exact ⟨hreg, hi, hpc, hsp, hdt, hst, hpixel, hstatus, hevents, rfl, fun _ => State.read_start_mem font image sb,
    fun _ ha => Memory.read_above ha (State.wf_load _ font image rfl)⟩

/-! ### A stopped block -/

/-- A move within a frame is one within the frame that leaves the two counters open as well. -/
theorem Frame.allowTimers {w : Touched} {s t : State} (h : Frame w s t) :
    Frame { w with dt := true, st := true } s t := by
  obtain ⟨reg, pc, i, sp, -, -, display, status, ports, mem, params⟩ := h
  exact ⟨reg, pc, i, sp, nofun, nofun, display, status, ports, mem, params⟩

/-- The interpreter's step of a block stopped at an address it can fetch from: the jump puts pc back where the fetch
found it, so only the ports move (R284). -/
theorem step_interpreter_of_stoppedAt {e : Addr} {s : State} (he : e.toNat ≤ 0xFFD) (h : stoppedAt e s)
    (hturn : s.tickPort ≠ 0) : step s = .next s.refreshPorts := by
  obtain ⟨hrun, rfl, hword⟩ := h
  rw [step_execute hrun hturn he, hword, decode_encode]
  rfl

/-- Settles O60: by whose turn it is. The timer agent's step moves the counters and the ports, the interpreter's the
ports; status, pc and Memory, which `stoppedAt` speaks of, are neither's. -/
theorem stoppedStays : Obligations.StoppedStays := by
  intro e s he hstopped
  have ⟨hrun, _⟩ := hstopped
  by_cases hturn : s.tickPort = 0
  · exact ⟨s.tickStep, step_timer hrun hturn, hstopped, s.frame_tickStep, fun hne => absurd hturn hne⟩
  · exact ⟨s.refreshPorts, step_interpreter_of_stoppedAt he hstopped hturn, hstopped, s.frame_refreshPorts.allowTimers,
      fun _ => s.frame_refreshPorts⟩

end Sys2Proof.Machine
end
